-- ==== Sys2Proof/Word.lean ====
section
/-!
DEFINITION. The words, the index types and the register and guard-unit data of the R-SPU: the types that every other
file of the model speaks of. What is computed from them (widths, payloads, activation) is in Machine/Operands.lean.
-/

namespace Sys2Proof

/-- A 32-bit instruction word (30_encoding.md R60). -/
abbrev Word := BitVec 32

/-- A register index, R0 to R255 (10_state.md R10: "RegId = u8"). -/
abbrev RegId := BitVec 8

/-- A guard-unit index as an instruction carries it: 8 bits, of which 0 to 63 name a unit (10_state.md R22). -/
abbrev GuardId := BitVec 8

/-- A port number as LOAD_INPUT and STORE_OUTPUT carry it: imm10 (30_encoding.md R66, 20_memory.md R43). -/
abbrev PortId := BitVec 10

/-- The TypeTag of a tagged word (10_state.md R13). Encodings 0x3 to 0xE are not assigned and never produced. -/
inductive Tag where
  | bool            -- 0x0 "Single-bit boolean"
  | unsigned        -- 0x1 "Unsigned integer of width w bits"
  | signed          -- 0x2 "Signed (two's complement) of width w bits"
  | uninitialized   -- 0xF "Register has not been written"
deriving DecidableEq, Repr, Inhabited

/-- The Provenance of a tagged word (10_state.md R14). The field `port` of 10_state.md R12, which has a meaning only
when the provenance is Input, stands inside it (log entry 4). -/
inductive Prov where
  | input (port : PortId)   -- 0x0 "Value came from a hardware input port"
  | computed                -- 0x1 "Value was produced by an ALU operation"
  | literal                 -- 0x2 "Value was loaded from an immediate"
  | unset                   -- 0xF "Register provenance has not been set"
deriving DecidableEq, Repr, Inhabited

/-- The content of one register (10_state.md R12): the 64-bit payload, the tag, the width `w` of the tag, and the
provenance. `w` lies in 1..64 in every legal state (`TaggedWord.legal`). -/
structure TaggedWord where
  value : BitVec 64
  tag : Tag
  w : Nat
  prov : Prov
deriving DecidableEq, Repr, Inhabited

/-- The whole register file (10_state.md R10). -/
abbrev RegFile := Vector TaggedWord 256

/-- The kinds of guard unit (10_state.md R23). -/
inductive GuardKind where
  | unconfigured | sr | ctr
deriving DecidableEq, Repr, Inhabited

/-- The state of one guard unit (10_state.md R23), by its kind: every unit has `cond`, `n` and `deadline` (the armed
deadline's remaining cycles), a shift-register unit its `bits` (index 0 the newest sample) besides, a counter unit its
`count` (log entry 23). -/
inductive GuardUnit where
  | unconfigured (cond : RegId) (n : Nat) (deadline : Option Nat)
  | sr (cond : RegId) (n : Nat) (bits : List Bool) (deadline : Option Nat)
  | ctr (cond : RegId) (n : Nat) (count : Nat) (deadline : Option Nat)
deriving DecidableEq, Repr, Inhabited

/-- The 64 guard units (10_state.md R22). -/
abbrev GuardFile := Vector GuardUnit 64

/-- The execution modes (10_state.md R26). -/
inductive Mode where
  | reflex   -- "deterministic, cycle-accurate, interrupt-free"
  | host     -- "interrupt-driven, variable latency"
deriving DecidableEq, Repr, Inhabited

/-- The exceptions, codes 1 to 6 (60_exceptions.md R220). Code 0, None, is the absence of one and is never raised. -/
inductive ExcCode where
  | divisionByZero          -- 1
  | registerUninitialized   -- 2
  | tagMismatch             -- 3
  | deadlineMiss            -- 4
  | assertionViolation      -- 5
  | userTrap                -- 6
deriving DecidableEq, Repr, Inhabited

/-- The 14 binary operations of ALU and ALU_IMM (30_encoding.md R81). -/
inductive AluOp where
  | add | sub | mul | and | or | xor | shl | shr | eq | ne | lt | le | gt | ge
deriving DecidableEq, Repr, Inhabited

/-- The two unary operations of ALU_UNARY (30_encoding.md R82). -/
inductive AluUnaryOp where
  | not | neg
deriving DecidableEq, Repr, Inhabited

/-- The result word of an ALU_FN that is not the spec's default, but for its provenance, which R110 fixes. The width is
`width` + 1: a word's `w` lies in 1..64 (10_state.md R12). -/
structure AluResult where
  value : BitVec 64
  tag : Tag
  width : Fin 64
deriving DecidableEq, Repr, Inhabited

/-- What the parameter ALU_FN supplies (00_scope.md R5, 92_eei_decisions.md D13): total functions of the operation and the
operand words. -/
structure AluFunctions where
  binary : AluOp → TaggedWord → TaggedWord → AluResult
  unary : AluUnaryOp → TaggedWord → AluResult
deriving Inhabited

/-- What the parameter GUARD_MODEL supplies (00_scope.md R5, 92_eei_decisions.md D16): what a unit of length or target `n`
starts with, what a tick that samples `c` makes of it, and when it is active. -/
structure GuardFunctions where
  srInit : (n : Nat) → List Bool
  srTick : (c : Bool) → (n : Nat) → (bits : List Bool) → List Bool
  srActive : (n : Nat) → (bits : List Bool) → Bool
  ctrInit : (n : Nat) → Nat
  ctrTick : (c : Bool) → (n : Nat) → (count : Nat) → Nat
  ctrActive : (n : Nat) → (count : Nat) → Bool
deriving Inhabited

/-- What a host action can change between two instructions in host mode (60_exceptions.md R252: "registers, guard
units, `exc` and `pc`"). -/
structure HostView where
  regs : RegFile
  guards : GuardFile
  exc : Option ExcCode
  pc : Nat
deriving DecidableEq, Repr, Inhabited

/-- The order of the four bytes of an instruction word in a program file (20_memory.md R47). -/
inductive ByteOrder where
  | little | big
deriving DecidableEq, Repr, Inhabited

end Sys2Proof
end

