-- ==== Sys2Proof/Config.lean ====
section
/-!
DEFINITION. What one implementation fixes: the constants of 00_scope.md R3 and R4, the two parameters that the spec
leaves open without a default, what an ALU_FN or a GUARD_MODEL other than the spec's supplies, and the free values
(draws) of the environment. A constant without a body has no value
that any proof can see: a claim about it holds for every value. The parameters that have a default are plain data
in `State.cfg` (Machine/State.lean).
-/

namespace Sys2Proof.Config

/-- MAX_REGISTERS (00_scope.md R3). -/
def maxRegisters : Nat := 256

/-- MAX_GUARDS (00_scope.md R3). -/
def maxGuards : Nat := 64

/-- MAX_INSTRUCTIONS (00_scope.md R3). -/
def maxInstructions : Nat := 4096

/-- MAX_TRAP_HANDLERS (00_scope.md R3). -/
def maxTrapHandlers : Nat := 16

/-- MAX_EXCEPTION_DEPTH (00_scope.md R3). -/
def maxExceptionDepth : Nat := 8

/-- MAX_SIM_CYCLES, "simulator-only bound" (00_scope.md R3, 70_reset_and_hazards.md R285, log entry 29). -/
def maxSimCycles : Nat := 1000000

/-- MAX_TAGGED_WORD_BITS, "Maximum bits per tagged register word (64 data + tags)" (00_scope.md R3, 10_state.md R12). Every
legal word is within it (`TaggedWord.legal`). -/
def maxTaggedWordBits : Nat := 128

/-- MAX_EXPR_NODES (00_scope.md R3): a bound of the compiler; nothing of the machine reads it (log entry 29). -/
def maxExprNodes : Nat := 512

/-- The value field, "64 bits" (00_scope.md R3, 10_state.md R12). -/
def valueBits : Nat := 64

/-- The tag field, "4 bits" (00_scope.md R3, 10_state.md R12). -/
def tagBits : Nat := 4

/-- The provenance field, "4 bits" (00_scope.md R3, 10_state.md R12). -/
def provBits : Nat := 4

/-- The port number inside a word whose provenance is Input (10_state.md R12, 30_encoding.md R66). -/
def portBits : Nat := 10

/-- The four register partitions (10_state.md R11, 00_scope.md R4): a static discipline of the compiler, which no
instruction of the machine checks. -/
inductive Partition where
  | input | output | internal | temporary
deriving DecidableEq, Repr

/-- The partition a register lies in (00_scope.md R4: bases 0, 64, 128 and 192). -/
def partitionOf (r : RegId) : Partition :=
  if r.toNat ≤ 63 then .input
  else if r.toNat ≤ 127 then .output
  else if r.toNat ≤ 191 then .internal
  else .temporary

/-- WORD_BYTE_ORDER, open and without a default (20_memory.md R47, D2). Only the loader reads it (log entry 9). -/
opaque wordByteOrder : ByteOrder

/-- ALU_OP_PLACEMENT, the function `alu_op_of` of 30_encoding.md R67: the AluOp number (0 to 15) that an ALU word
carries. Open and without a default (D4); its inverse on encodable instructions is `encodeAlu` (log entry 8). -/
opaque aluOpOf : Word → BitVec 4

/-- The functions of an ALU_FN other than the spec's default laws, by a number that names it (log entry 10). -/
opaque otherAlu : (model : Nat) → AluFunctions

/-- The functions of a GUARD_MODEL other than the spec's default laws, by a number that names it (log entry 11). -/
opaque otherGuards : (model : Nat) → GuardFunctions

/-- The activation of an Unconfigured unit, which only the deadline step asks for, and only when the host armed a deadline
there: 42_temporal_tier.md R141 states none. A function of the unit's state, as R24 has it of a configured one (log
entry 31). -/
opaque unconfiguredActive : (cond : RegId) → (n : Nat) → Bool

/-- The 64-bit value that an input port presents in a given cycle: a draw (20_memory.md R44, log entry 5). -/
opaque portRead : (cycle : Nat) → PortId → BitVec 64

/-- The environment's answer, in a given cycle, to "no pending interrupts, no in-flight DMA": a draw (10_state.md R32,
60_exceptions.md R253, log entry 6). -/
opaque quiescent : (cycle : Nat) → Bool

/-- What the host makes of the machine before the instruction of a given host-mode cycle: a draw from HOST.interrupt,
unconstrained (60_exceptions.md R252, log entry 7). -/
opaque hostInterrupt : (cycle : Nat) → HostView → HostView

/-- The payload a register holds at reset: a draw, fixed at reset (93_implementation_defined.md U13, U17, log entry 3). -/
opaque resetValue : RegId → BitVec 64

/-- The width a register holds at reset, less one: a draw from 1..64, fixed at reset (93_implementation_defined.md U13,
log entry 3). -/
opaque resetWidth : RegId → Fin 64

end Sys2Proof.Config
end

