-- ==== Sys2Proof/Syntax.lean ====
section
/-!
DEFINITION. The 30 instructions of R-SPU ISA v2 (30_encoding.md R80), one constructor each in opcode order, operands in
the order of the Fields column. An operand is the field of the encoding that carries it (30_encoding.md R66), so a
reserved operand value can be written here; WellFormed.lean says which are reserved.
-/

namespace Sys2Proof

/-- One decoded instruction (30_encoding.md R80). -/
inductive Instr where
  | loadInput (dst : RegId) (port : PortId)                                -- 0  LOAD_INPUT
  | storeOutput (src : RegId) (port : PortId)                              -- 1  STORE_OUTPUT
  | mov (dst src : RegId)                                                  -- 2  MOV
  | loadImm (dst : RegId) (value : BitVec 10) (width : BitVec 8)           -- 3  LOAD_IMM
  | alu (op : BitVec 4) (dst a b : RegId)                                  -- 4  ALU
  | aluImm (op : BitVec 4) (dst a : RegId) (imm : BitVec 6)                -- 5  ALU_IMM
  | aluUnary (op : BitVec 2) (dst src : RegId)                             -- 6  ALU_UNARY
  | srInit (guard : GuardId) (length : BitVec 8) (cond : RegId)            -- 7  SR_INIT
  | srTick (guard : GuardId)                                               -- 8  SR_TICK
  | srQuery (dst : RegId) (guard : GuardId)                                -- 9  SR_QUERY
  | ctrInit (guard : GuardId) (target : BitVec 8) (cond : RegId)           -- 10 CTR_INIT
  | ctrTick (guard : GuardId)                                              -- 11 CTR_TICK
  | ctrQuery (dst : RegId) (guard : GuardId)                               -- 12 CTR_QUERY
  | guardAnd (dst : RegId) (a b : GuardId)                                 -- 13 GUARD_AND
  | guardOr (dst : RegId) (a b : GuardId)                                  -- 14 GUARD_OR
  | reflexIf (guard : GuardId) (dst src : RegId)                           -- 15 REFLEX_IF
  | prev (dst signal : RegId) (delay : BitVec 8)                           -- 16 PREV
  | emergencyStop                                                          -- 17 EMERGENCY_STOP
  | assertAlways (cond : RegId) (propertyId : BitVec 18)                   -- 18 ASSERT_ALWAYS
  | assertNever (cond : RegId) (propertyId : BitVec 18)                    -- 19 ASSERT_NEVER
  | trap (code : BitVec 26)                                                -- 20 TRAP
  | trapIf (cond : RegId) (code : BitVec 18)                               -- 21 TRAP_IF
  | halt (exitCode : BitVec 26)                                            -- 22 HALT
  | modeSwitch (target : BitVec 26)                                        -- 23 MODE_SWITCH
  | tagLoad (dst : RegId) (tagValue : BitVec 4)                            -- 24 TAG_LOAD
  | tagCheck (src : RegId) (expectedTag : BitVec 4)                        -- 25 TAG_CHECK
  | tagRead (dst src : RegId)                                              -- 26 TAG_READ
  | nop                                                                    -- 27 NOP
  | fence                                                                  -- 28 FENCE
  | deadlineSet (guard : GuardId) (maxCycles : BitVec 18)                  -- 29 DEADLINE_SET
deriving DecidableEq, Repr

end Sys2Proof
end

