-- ==== Sys2Proof/WellFormed.lean ====
section
/-!
DEFINITION. Which instructions the encoding admits: the operand values that 30_encoding.md R83 calls not assigned, each
with the spec's name for its refusal (93_implementation_defined.md U2, U3, U5, U9, U10). Operand values that are no
reserved encoding but that an instruction refuses when it executes (a width, a length, a port number, a deadline of 0:
95_test_vectors.md E3) are well-formed here, and refused by the meaning.
-/

namespace Sys2Proof

/-- Why a word is no instruction (30_encoding.md R71, R72, R83). Raised by the decoder alone. All are safe: the
model stops where the spec gives the hardware no behaviour. -/
inductive Illegal where
  /-- Opcode 30 to 63 (30_encoding.md R83, U1). -/
  | unassignedOpcode
  /-- A field the instruction does not use is not zero (30_encoding.md R71, U4). -/
  | nonZeroUnusedField
  /-- AluOp number 14 or 15, AluUnaryOp number 2 or 3 (30_encoding.md R83, U2). -/
  | reservedAluOp
  /-- Tag operand 0x3 to 0xE (30_encoding.md R83, U3). -/
  | reservedTag
  /-- GuardId 64 to 255 (30_encoding.md R83, U5). -/
  | guardIndexOutOfBounds
  /-- TRAP or TRAP_IF code 0 or above 6 (30_encoding.md R83, U9). -/
  | badExceptionCode
  /-- MODE_SWITCH target other than 0 and 1 (30_encoding.md R83, U10). -/
  | badMode
deriving DecidableEq, Repr

/-- The refusal `e` unless the condition holds. -/
def unlessOk (ok : Bool) (e : Illegal) : Option Illegal := if ok then none else some e

/-- An assigned AluOp number (30_encoding.md R81). -/
def isAluOp (op : BitVec 4) : Bool := op.toNat ≤ 13

/-- An assigned AluUnaryOp number (30_encoding.md R82). -/
def isAluUnaryOp (op : BitVec 2) : Bool := op.toNat ≤ 1

/-- An assigned tag encoding (10_state.md R13). -/
def isTagCode (t : BitVec 4) : Bool := t.toNat ≤ 2 || t.toNat == 15

/-- A GuardId that names a unit (10_state.md R22). -/
def isGuard (g : GuardId) : Bool := g.toNat ≤ 63

/-- The code of an exception (60_exceptions.md R220). -/
def isExcCode (c : Nat) : Bool := 1 ≤ c && c ≤ 6

/-- What the encoding forbids of an instruction's operands, if anything (30_encoding.md R83). -/
def Instr.illegal : Instr → Option Illegal
  | .loadInput _ _ => none
  | .storeOutput _ _ => none
  | .mov _ _ => none
  | .loadImm _ _ _ => none
  | .alu op _ _ _ => unlessOk (isAluOp op) .reservedAluOp
  | .aluImm op _ _ _ => unlessOk (isAluOp op) .reservedAluOp
  | .aluUnary op _ _ => unlessOk (isAluUnaryOp op) .reservedAluOp
  | .srInit g _ _ => unlessOk (isGuard g) .guardIndexOutOfBounds
  | .srTick g => unlessOk (isGuard g) .guardIndexOutOfBounds
  | .srQuery _ g => unlessOk (isGuard g) .guardIndexOutOfBounds
  | .ctrInit g _ _ => unlessOk (isGuard g) .guardIndexOutOfBounds
  | .ctrTick g => unlessOk (isGuard g) .guardIndexOutOfBounds
  | .ctrQuery _ g => unlessOk (isGuard g) .guardIndexOutOfBounds
  | .guardAnd _ a b => unlessOk (isGuard a && isGuard b) .guardIndexOutOfBounds
  | .guardOr _ a b => unlessOk (isGuard a && isGuard b) .guardIndexOutOfBounds
  | .reflexIf g _ _ => unlessOk (isGuard g) .guardIndexOutOfBounds
  | .prev _ _ _ => none
  | .emergencyStop => none
  | .assertAlways _ _ => none
  | .assertNever _ _ => none
  | .trap c => unlessOk (isExcCode c.toNat) .badExceptionCode
  | .trapIf _ c => unlessOk (isExcCode c.toNat) .badExceptionCode
  | .halt _ => none
  | .modeSwitch t => unlessOk (t.toNat ≤ 1) .badMode
  | .tagLoad _ t => unlessOk (isTagCode t) .reservedTag
  | .tagCheck _ t => unlessOk (isTagCode t) .reservedTag
  | .tagRead _ _ => none
  | .nop => none
  | .fence => none
  | .deadlineSet g _ => unlessOk (isGuard g) .guardIndexOutOfBounds

/-- The encoding admits the instruction. -/
def Instr.wellFormed (i : Instr) : Bool := i.illegal == none

end Sys2Proof
end

