-- ==== Sys2Proof/Decode.lean ====
section
/-!
DEFINITION. The decoder and, after it, the encoder (30_encoding.md). Both are written from the same tables: the four
formats of R61 to R64 and the operand placement of R66 to R68 (the spec's decisions D3, D5, D15, D25, log entry 12).
The decoder is total: every 32-bit word is one instruction or is rejected by name (R72).
-/

namespace Sys2Proof

/-! ## The fields of the formats (30_encoding.md R61 to R64) -/

/-- word[31:26], the opcode (R60). -/
def opcodeField (w : Word) : BitVec 6 := w.extractLsb' 26 6

/-- word[25:18]: dst (R, I), guard (G), the first operand of imm26 (S). -/
def fieldA (w : Word) : BitVec 8 := w.extractLsb' 18 8

/-- word[17:10]: src1 (R), src (I), src_dst (G). -/
def fieldB (w : Word) : BitVec 8 := w.extractLsb' 10 8

/-- word[9:2]: src2 (R), guard2 (G). -/
def fieldC (w : Word) : BitVec 8 := w.extractLsb' 2 8

/-- word[1:0]: func (R, G). -/
def funcField (w : Word) : BitVec 2 := w.extractLsb' 0 2

/-- word[9:0]: imm10 (I). -/
def imm10 (w : Word) : BitVec 10 := w.extractLsb' 0 10

/-- word[25:0]: imm26 (S). -/
def imm26 (w : Word) : BitVec 26 := w.extractLsb' 0 26

/-- word[17:0]: the number of an S-type instruction whose imm26[25:18] holds a register or a guard (R66). -/
def imm18 (w : Word) : BitVec 18 := w.extractLsb' 0 18

/-- word[9:6]: ALU_IMM's operation number, imm10[9:6] (R68). -/
def immOp (w : Word) : BitVec 4 := w.extractLsb' 6 4

/-- word[5:0]: ALU_IMM's immediate, imm10[5:0] (R68). -/
def immLow (w : Word) : BitVec 6 := w.extractLsb' 0 6

/-- word[13:10]: TAG_LOAD's tag operand, the low four bits of src1 (R66). -/
def tagInB (w : Word) : BitVec 4 := w.extractLsb' 10 4

/-- word[17:14]: the four bits of src1 that TAG_LOAD does not use. -/
def restOfB (w : Word) : BitVec 4 := w.extractLsb' 14 4

/-- word[5:2]: TAG_CHECK's tag operand, the low four bits of src2 (R66). -/
def tagInC (w : Word) : BitVec 4 := w.extractLsb' 2 4

/-- word[9:6]: the four bits of src2 that TAG_CHECK does not use. -/
def restOfC (w : Word) : BitVec 4 := w.extractLsb' 6 4

/-! ## The decoder -/

/-- An operand form, accepted only when the fields it does not use are zero (30_encoding.md R71). -/
def whenZero (unusedZero : Bool) (i : Instr) : Except Illegal Instr :=
  if unusedZero then .ok i else .error .nonZeroUnusedField

/-- The instruction a word spells by its opcode and format (30_encoding.md R66 to R68, R80), before the check of its
operand values. -/
def decodeForm (w : Word) : Except Illegal Instr :=
  match (opcodeField w).toNat with
  | 0 => whenZero (fieldB w == 0) (.loadInput (fieldA w) (imm10 w))
  | 1 => whenZero (fieldA w == 0) (.storeOutput (fieldB w) (imm10 w))
  | 2 => whenZero (fieldC w == 0 && funcField w == 0) (.mov (fieldA w) (fieldB w))
  | 3 => .ok (.loadImm (fieldA w) (imm10 w) (fieldB w))
  | 4 => .ok (.alu (Config.aluOpOf w) (fieldA w) (fieldB w) (fieldC w))
  | 5 => .ok (.aluImm (immOp w) (fieldA w) (fieldB w) (immLow w))
  | 6 => whenZero (fieldC w == 0) (.aluUnary (funcField w) (fieldA w) (fieldB w))
  | 7 => whenZero (funcField w == 0) (.srInit (fieldA w) (fieldC w) (fieldB w))
  | 8 => whenZero (fieldB w == 0 && fieldC w == 0 && funcField w == 0) (.srTick (fieldA w))
  | 9 => whenZero (fieldC w == 0 && funcField w == 0) (.srQuery (fieldB w) (fieldA w))
  | 10 => whenZero (funcField w == 0) (.ctrInit (fieldA w) (fieldC w) (fieldB w))
  | 11 => whenZero (fieldB w == 0 && fieldC w == 0 && funcField w == 0) (.ctrTick (fieldA w))
  | 12 => whenZero (fieldC w == 0 && funcField w == 0) (.ctrQuery (fieldB w) (fieldA w))
  | 13 => whenZero (funcField w == 0) (.guardAnd (fieldB w) (fieldA w) (fieldC w))
  | 14 => whenZero (funcField w == 0) (.guardOr (fieldB w) (fieldA w) (fieldC w))
  | 15 => whenZero (funcField w == 0) (.reflexIf (fieldA w) (fieldB w) (fieldC w))
  | 16 => whenZero (funcField w == 0) (.prev (fieldB w) (fieldA w) (fieldC w))
  | 17 => whenZero (imm26 w == 0) .emergencyStop
  | 18 => .ok (.assertAlways (fieldA w) (imm18 w))
  | 19 => .ok (.assertNever (fieldA w) (imm18 w))
  | 20 => .ok (.trap (imm26 w))
  | 21 => .ok (.trapIf (fieldA w) (imm18 w))
  | 22 => .ok (.halt (imm26 w))
  | 23 => .ok (.modeSwitch (imm26 w))
  | 24 => whenZero (restOfB w == 0 && fieldC w == 0 && funcField w == 0) (.tagLoad (fieldA w) (tagInB w))
  | 25 => whenZero (fieldA w == 0 && restOfC w == 0 && funcField w == 0) (.tagCheck (fieldB w) (tagInC w))
  | 26 => whenZero (fieldC w == 0 && funcField w == 0) (.tagRead (fieldA w) (fieldB w))
  | 27 => whenZero (imm26 w == 0) .nop
  | 28 => whenZero (imm26 w == 0) .fence
  | 29 => .ok (.deadlineSet (fieldA w) (imm18 w))
  | _ => .error .unassignedOpcode

/-- Decoding (30_encoding.md R72): a word yields either one instruction or a rejection. A reserved operand value rejects
the word (R83). -/
def decode (w : Word) : Except Illegal Instr :=
  match decodeForm w with
  | .error e => .error e
  | .ok i =>
    match i.illegal with
    | some e => .error e
    | none => .ok i

/-- The instruction the decoder reads from a table row's `nbits` bits `w`; every bit above them is zero. -/
def decodeTableWord (nbits w : Nat) : Option Instr :=
  match decode (BitVec.ofNat 32 (w % 2 ^ nbits)) with
  | .ok i => some i
  | .error _ => none

/-! ## The encoder -/

/-- An R-type or G-type word (30_encoding.md R61, R63). -/
def wordRG (opcode : BitVec 6) (a b c : BitVec 8) (func : BitVec 2) : Word := opcode ++ a ++ b ++ c ++ func

/-- An I-type word (30_encoding.md R62). -/
def wordI (opcode : BitVec 6) (a b : BitVec 8) (imm : BitVec 10) : Word := opcode ++ a ++ b ++ imm

/-- An S-type word (30_encoding.md R64). -/
def wordS (opcode : BitVec 6) (imm : BitVec 26) : Word := opcode ++ imm

/-- An S-type word whose imm26[25:18] holds a register or a guard (30_encoding.md R66). -/
def wordSA (opcode : BitVec 6) (a : BitVec 8) (imm : BitVec 18) : Word := opcode ++ a ++ imm

/-- The four words that have ALU's opcode and these registers in place (30_encoding.md R67): they differ in `func`. -/
def aluCandidates (dst a b : RegId) : List Word :=
  [wordRG 4 dst a b 0, wordRG 4 dst a b 1, wordRG 4 dst a b 2, wordRG 4 dst a b 3]

/-- ALU_OP_PLACEMENT's inverse "on encodable instructions" (30_encoding.md R67): the first word with the registers in
place that carries the operation number; none where no word does (log entry 8). -/
def encodeAlu (op : BitVec 4) (dst a b : RegId) : Option Word :=
  (aluCandidates dst a b).find? fun w => Config.aluOpOf w == op

/-- The word of an instruction (30_encoding.md R66 to R68, R71: unused fields are zero). -/
def encode : Instr → Option Word
  | .loadInput dst port => some (wordI 0 dst 0 port)
  | .storeOutput src port => some (wordI 1 0 src port)
  | .mov dst src => some (wordRG 2 dst src 0 0)
  | .loadImm dst value width => some (wordI 3 dst width value)
  | .alu op dst a b => encodeAlu op dst a b
  | .aluImm op dst a imm => some (wordI 5 dst a (op ++ imm))
  | .aluUnary op dst src => some (wordRG 6 dst src 0 op)
  | .srInit g length cond => some (wordRG 7 g cond length 0)
  | .srTick g => some (wordRG 8 g 0 0 0)
  | .srQuery dst g => some (wordRG 9 g dst 0 0)
  | .ctrInit g target cond => some (wordRG 10 g cond target 0)
  | .ctrTick g => some (wordRG 11 g 0 0 0)
  | .ctrQuery dst g => some (wordRG 12 g dst 0 0)
  | .guardAnd dst a b => some (wordRG 13 a dst b 0)
  | .guardOr dst a b => some (wordRG 14 a dst b 0)
  | .reflexIf g dst src => some (wordRG 15 g dst src 0)
  | .prev dst signal delay => some (wordRG 16 signal dst delay 0)
  | .emergencyStop => some (wordS 17 0)
  | .assertAlways cond pid => some (wordSA 18 cond pid)
  | .assertNever cond pid => some (wordSA 19 cond pid)
  | .trap code => some (wordS 20 code)
  | .trapIf cond code => some (wordSA 21 cond code)
  | .halt code => some (wordS 22 code)
  | .modeSwitch target => some (wordS 23 target)
  | .tagLoad dst t => some (wordRG 24 dst ((0 : BitVec 4) ++ t) 0 0)
  | .tagCheck src t => some (wordRG 25 0 src ((0 : BitVec 4) ++ t) 0)
  | .tagRead dst src => some (wordRG 26 dst src 0 0)
  | .nop => some (wordS 27 0)
  | .fence => some (wordS 28 0)
  | .deadlineSet g cycles => some (wordSA 29 g cycles)

/-- The opcode number of an instruction (30_encoding.md R80). -/
def Instr.opcode : Instr → Nat
  | .loadInput _ _ => 0
  | .storeOutput _ _ => 1
  | .mov _ _ => 2
  | .loadImm _ _ _ => 3
  | .alu _ _ _ _ => 4
  | .aluImm _ _ _ _ => 5
  | .aluUnary _ _ _ => 6
  | .srInit _ _ _ => 7
  | .srTick _ => 8
  | .srQuery _ _ => 9
  | .ctrInit _ _ _ => 10
  | .ctrTick _ => 11
  | .ctrQuery _ _ => 12
  | .guardAnd _ _ _ => 13
  | .guardOr _ _ _ => 14
  | .reflexIf _ _ _ => 15
  | .prev _ _ _ => 16
  | .emergencyStop => 17
  | .assertAlways _ _ => 18
  | .assertNever _ _ => 19
  | .trap _ => 20
  | .trapIf _ _ => 21
  | .halt _ => 22
  | .modeSwitch _ => 23
  | .tagLoad _ _ => 24
  | .tagCheck _ _ => 25
  | .tagRead _ _ => 26
  | .nop => 27
  | .fence => 28
  | .deadlineSet _ _ => 29

/-! ## The numbers of the named operand values -/

/-- The operation of an AluOp number (30_encoding.md R81); 14 and 15 name none. -/
def AluOp.ofCode (c : BitVec 4) : Option AluOp :=
  match c.toNat with
  | 0 => some .add
  | 1 => some .sub
  | 2 => some .mul
  | 3 => some .and
  | 4 => some .or
  | 5 => some .xor
  | 6 => some .shl
  | 7 => some .shr
  | 8 => some .eq
  | 9 => some .ne
  | 10 => some .lt
  | 11 => some .le
  | 12 => some .gt
  | 13 => some .ge
  | _ => none

/-- The operation of an AluUnaryOp number (30_encoding.md R82); 2 and 3 name none. -/
def AluUnaryOp.ofCode (c : BitVec 2) : Option AluUnaryOp :=
  match c.toNat with
  | 0 => some .not
  | 1 => some .neg
  | _ => none

/-- The 4-bit encoding of a tag (10_state.md R13). -/
def Tag.code : Tag → BitVec 4
  | .bool => 0x0
  | .unsigned => 0x1
  | .signed => 0x2
  | .uninitialized => 0xF

/-- The tag of a 4-bit encoding (10_state.md R13); 0x3 to 0xE name none. -/
def Tag.ofCode (c : BitVec 4) : Option Tag :=
  match c.toNat with
  | 0 => some .bool
  | 1 => some .unsigned
  | 2 => some .signed
  | 15 => some .uninitialized
  | _ => none

/-- The 4-bit encoding of a provenance (10_state.md R14). -/
def Prov.code : Prov → BitVec 4
  | .input _ => 0x0
  | .computed => 0x1
  | .literal => 0x2
  | .unset => 0xF

/-- The number of an exception (60_exceptions.md R220). -/
def ExcCode.number : ExcCode → Nat
  | .divisionByZero => 1
  | .registerUninitialized => 2
  | .tagMismatch => 3
  | .deadlineMiss => 4
  | .assertionViolation => 5
  | .userTrap => 6

/-- The exception of a number (60_exceptions.md R220); 0 is the sentinel None and names none. -/
def ExcCode.ofNumber (n : Nat) : Option ExcCode :=
  match n with
  | 1 => some .divisionByZero
  | 2 => some .registerUninitialized
  | 3 => some .tagMismatch
  | 4 => some .deadlineMiss
  | 5 => some .assertionViolation
  | 6 => some .userTrap
  | _ => none

/-- The mode of a MODE_SWITCH target (30_encoding.md R66: 0 Reflex, 1 Host). -/
def Mode.ofNumber (n : Nat) : Option Mode :=
  match n with
  | 0 => some .reflex
  | 1 => some .host
  | _ => none

end Sys2Proof
end

