-- ==== Sys2Proof/Machine/State.lean ====
section
/-!
DEFINITION. The state of the machine as plain data (10_state.md R10 to R36), the parameters loaded before reset is
released (00_scope.md R5), the reasons a step can stop, and the state after reset (10_state.md R35).
-/

namespace Sys2Proof.Machine

/-- The action a handler entry may specify (60_exceptions.md R232). -/
inductive HandlerAction where
  | halt                -- "Graceful program termination."
  | emergencyStop       -- "Immediate safety-critical abort (non-recoverable)."
  | ignoreAndContinue   -- "Suppress the exception and resume execution at PC+1."
  | trapToHost          -- "Transfer control to the host processor (exit reflex mode)."
deriving DecidableEq, Repr

/-- One entry of HANDLER_TABLE (60_exceptions.md R224): a code, a handler address, and an action or none. The code is
kept as a number, so that an ill-formed table can be loaded and refused. -/
structure HandlerEntry where
  code : Nat
  address : Nat
  action : Option HandlerAction
deriving DecidableEq, Repr

/-- END_OF_PROGRAM (70_reset_and_hazards.md R283). -/
inductive EndOfProgram where
  | fault
  | wrap
deriving DecidableEq, Repr

/-- The tag and width that LOAD_INPUT gives a word (IN_PORT_TYPE, 00_scope.md R5). -/
structure PortType where
  tag : Tag
  w : Nat
deriving DecidableEq, Repr

/-- ALU_FN (00_scope.md R5): the spec's laws (its default), or another one by number (Config.otherAlu, log entry 10). -/
inductive AluModel where
  | laws
  | other (model : Nat)
deriving DecidableEq, Repr

/-- GUARD_MODEL (00_scope.md R5): the spec's laws (its default), or another one by number (Config.otherGuards, log entry
11). -/
inductive GuardModel where
  | laws
  | other (model : Nat)
deriving DecidableEq, Repr

/-- The parameters supplied from outside before reset is released (00_scope.md R5, 70_reset_and_hazards.md R272). No
instruction and no event changes them (10_state.md R29, 20_memory.md R53). -/
structure Params where
  /-- PROGRAM: the instruction store (20_memory.md R41). -/
  program : List Word
  /-- HANDLER_TABLE (60_exceptions.md R224). -/
  handlers : List HandlerEntry
  /-- INITIAL_MODE (10_state.md R35). -/
  initialMode : Mode
  /-- END_OF_PROGRAM (70_reset_and_hazards.md R283). -/
  endOfProgram : EndOfProgram
  /-- ASSERT_CHECKED (43_safety_tier.md R171). -/
  assertChecked : Bool
  /-- N_IN_PORTS (20_memory.md R43). -/
  nInPorts : Nat
  /-- N_OUT_PORTS (20_memory.md R43). -/
  nOutPorts : Nat
  /-- IN_PORT_TYPE, as the ports whose type is not (Unsigned, 64) (20_memory.md R44). -/
  inPortTypes : List (PortId × PortType)
  /-- ALU_FN (41_alu_tier.md R126). -/
  aluModel : AluModel
  /-- GUARD_MODEL (42_temporal_tier.md R141 to R147). -/
  guardModel : GuardModel
deriving DecidableEq, Repr

/-- What caused an emergency stop (10_state.md R30: "cause is bookkeeping"). -/
inductive StopCause where
  | instruction
  | unhandled (c : ExcCode)
  | depthOverflow (c : ExcCode)
  | action (c : ExcCode)
deriving DecidableEq, Repr

/-- The run state (10_state.md R30). Its two model-only stops, Fault and Refused, are outcomes of the step and not
states (log entry 13). -/
inductive RunState where
  | running
  | halted (exitCode : BitVec 26)
  | emergencyStopped (cause : StopCause)
  | haltedByException (c : ExcCode)
  | trappedToHost (c : ExcCode)
deriving DecidableEq, Repr

/-- One port write (20_memory.md R45). -/
structure PortEvent where
  cycle : Nat
  port : PortId
  word : TaggedWord
deriving DecidableEq, Repr

/-- The state of the R-SPU. -/
structure State where
  /-- The parameters, fixed for the run (00_scope.md R5). -/
  cfg : Params
  /-- x[0..255] (10_state.md R10). -/
  regs : RegFile
  /-- The index of the instruction to be fetched (10_state.md R19). -/
  pc : Nat
  /-- G[0..63] (10_state.md R22). -/
  guards : GuardFile
  /-- The execution mode (10_state.md R26). -/
  mode : Mode
  /-- The exception depth, 0 to 8 (10_state.md R27). -/
  depth : Nat
  /-- The last exception code; none is code 0 (10_state.md R28). -/
  exc : Option ExcCode
  /-- The run state (10_state.md R30). -/
  run : RunState
  /-- The count of instructions executed since reset (10_state.md R31). -/
  cycle : Nat
  /-- The count of tick boundaries (10_state.md R33). -/
  tick : Nat
  /-- The register file at each tick boundary, newest first (10_state.md R33). -/
  hist : List RegFile
  /-- The word each output port shows, none while Undriven (10_state.md R34). -/
  outport : Vector (Option TaggedWord) 1024
  /-- All port writes, oldest first (10_state.md R34). -/
  outlog : List PortEvent
deriving DecidableEq, Repr

/-- Why the machine stops with a fault. -/
inductive Fault where
  /-- Raised by the step when the pc is at or past the end of the program and END_OF_PROGRAM is `fault`
  (70_reset_and_hazards.md R283). Safe: nothing is claimed about what the hardware fetches there. -/
  | fetchOutOfProgram
  /-- Raised by the step when the run state is not Running: "A model has no transition out of these states"
  (70_reset_and_hazards.md R271). Safe: the machine has no further behaviour to claim anything about. -/
  | stopped
deriving DecidableEq, Repr

/-- Why the model refuses to step: the spec gives the situation no meaning (93_implementation_defined.md section 1).
None is an exception or a final state, and each is safe: nothing is provable through it. -/
inductive Refusal where
  /-- Raised by exec's arm of an instruction that has no meaning yet. Safe. -/
  | notModelled (mnemonic : String)
  /-- Raised by the step on a word that is no instruction (U1 to U5, U9, U10), with the specific reason. Safe. -/
  | illegalWord (why : Illegal)
  /-- Raised by ALU, ALU_IMM, ALU_UNARY on a reserved operation number (U2). Safe. -/
  | reservedAluOp
  /-- Raised by TAG_LOAD and TAG_CHECK on a tag operand 0x3 to 0xE (U3). Safe. -/
  | reservedTag
  /-- Raised by every instruction with a guard operand, on 64 to 255 (U5). Safe. -/
  | guardIndexOutOfBounds
  /-- Raised by every instruction that needs a configured unit (of a kind), on another (U6). Safe. -/
  | guardNotConfigured
  /-- Raised by SR_INIT and CTR_INIT on a length or target of 0 (U7). Safe. -/
  | zeroLengthGuard
  /-- Raised by DEADLINE_SET on max_cycles 0 (U8). Safe. -/
  | zeroDeadline
  /-- Raised by TRAP and TRAP_IF on code 0 or above 6 (U9). Safe. -/
  | badExceptionCode
  /-- Raised by MODE_SWITCH on a target other than 0 and 1 (U10). Safe. -/
  | badMode
  /-- Raised by MODE_SWITCH to the mode the machine is in (U11). Safe. -/
  | modeSwitchToCurrentMode
  /-- Raised by LOAD_INPUT and STORE_OUTPUT on a port number at or above the bound (U12). Safe. -/
  | portOutOfRange
  /-- Raised by LOAD_IMM on width 0 or above 64 (U14). Safe. -/
  | badWidth
  /-- Raised by PREV on a delay longer than the history (U15). Safe. -/
  | prevBeforeStart
  /-- Raised by the step while HANDLER_TABLE is ill-formed (U28). Safe. -/
  | badHandlerTable
  /-- Raised by the step while PROGRAM is empty or too long (U29). Safe. -/
  | badProgram
deriving DecidableEq, Repr

/-- The outcome of an instruction or a step. -/
abbrev Result := Host.Outcome State Fault Refusal

/-- The parameters at their defaults (00_scope.md R5), with nothing loaded: "none: must be given" (log entries 1, 2). -/
def Params.default : Params where
  program := []
  handlers := []
  initialMode := .reflex
  endOfProgram := .fault
  assertChecked := true
  nInPorts := 64
  nOutPorts := 64
  inPortTypes := []
  aluModel := .laws
  guardModel := .laws

/-- A register after reset (10_state.md R35): Uninitialized, Unset, with the free payload and width of log entry 3. -/
def resetWord (r : RegId) : TaggedWord where
  value := Config.resetValue r
  tag := .uninitialized
  w := (Config.resetWidth r).val + 1
  prov := .unset

/-- The register file after reset. -/
def resetRegs : RegFile := Vector.ofFn fun k : Fin 256 => resetWord (BitVec.ofNat 8 k.val)

/-- A guard unit after reset (10_state.md R35): Unconfigured, no deadline; `cond` and `n`, for which R35 gives no value, are
those of log entry 30. -/
def resetUnit : GuardUnit := .unconfigured 0 0 none

/-- The state after reset with the given parameters (10_state.md R35, 70_reset_and_hazards.md R270, R271). -/
def State.resetWith (cfg : Params) : State where
  cfg := cfg
  regs := resetRegs
  pc := 0
  guards := Vector.replicate 64 resetUnit
  mode := cfg.initialMode
  depth := 0
  exc := none
  run := .running
  cycle := 0
  tick := 0
  hist := []
  outport := Vector.replicate 1024 none
  outlog := []

/-- The state after reset, every parameter at its default and no program loaded. -/
def State.reset : State := State.resetWith Params.default

end Sys2Proof.Machine
end

