-- ==== Sys2Proof/Machine/Operands.lean ====
section
/-!
DEFINITION. How an operand is read as a number or a truth value, how a result word is built (10_state.md R17, R18), and
what the value-producing ALU operations compute (41_alu_tier.md R113 to R121, R127, R128: the laws, which are ALU_FN at
its default, the spec's decision D13, log entry 10). The comparisons are in Machine/Flags.lean.
-/

namespace Sys2Proof

/-- `wd(v)` (10_state.md R17): a Bool has one bit, an Unsigned or Signed word its `w`. The rule gives an Uninitialized
word no width, and no meaning asks for one (log entry 18). -/
def TaggedWord.wd (v : TaggedWord) : Nat :=
  match v.tag with
  | .bool => 1
  | .unsigned | .signed | .uninitialized => v.w

/-- `raw(v)` (10_state.md R17): the low `wd(v)` bits of the payload, unsigned. -/
def TaggedWord.raw (v : TaggedWord) : Nat := v.value.toNat % 2 ^ v.wd

/-- `int(v)` (10_state.md R17): the payload as its tag reads it, two's complement if Signed. -/
def TaggedWord.int (v : TaggedWord) : Int :=
  match v.tag with
  | .signed => if 2 ^ (v.wd - 1) ≤ v.raw then (v.raw : Int) - 2 ^ v.wd else v.raw
  | .bool | .unsigned | .uninitialized => v.raw

/-- `truth(v)` (10_state.md R17): non-zero within the word's width. -/
def TaggedWord.truth (v : TaggedWord) : Bool := v.raw != 0

/-- `word(tag, w, n, prov)` (10_state.md R18): `n mod 2^w`, zero-extended to 64 bits; `.w` is 1 for Bool. -/
def TaggedWord.build (tag : Tag) (w : Nat) (n : Int) (prov : Prov) : TaggedWord where
  value := BitVec.ofNat 64 (n % 2 ^ w).toNat
  tag := tag
  w := match tag with
    | .bool => 1
    | .unsigned | .signed | .uninitialized => w
  prov := prov

/-- `bool(b)` (10_state.md R18): a Bool word with provenance Computed. -/
def TaggedWord.ofBool (b : Bool) : TaggedWord := TaggedWord.build .bool 1 (if b then 1 else 0) .computed

/-- The bits that hold a word (10_state.md R12): value, tag, provenance, its width `w`, and the port number if it has one. -/
def TaggedWord.bits (v : TaggedWord) : Nat :=
  Config.valueBits + Config.tagBits + Config.provBits + (Nat.log2 v.w + 1) +
    match v.prov with
    | .input _ => Config.portBits
    | .computed | .literal | .unset => 0

/-- A word within the bounds of 10_state.md R12: `w` lies in 1..64, and the whole word in MAX_TAGGED_WORD_BITS. -/
def TaggedWord.legal (v : TaggedWord) : Bool := 1 ≤ v.w && v.w ≤ 64 && v.bits ≤ Config.maxTaggedWordBits

namespace Machine

/-- A word with its provenance erased. -/
def eraseWordProv (v : TaggedWord) : TaggedWord := { v with prov := .unset }

/-- The word of a result of ALU_FN; its provenance is Computed (41_alu_tier.md R110). -/
def resultWord (r : AluResult) : TaggedWord :=
  { value := r.value, tag := r.tag, w := r.width.val + 1, prov := .computed }

/-- `cb` (41_alu_tier.md R113): the second operand's value brought to width W. -/
def broughtTo (W : Nat) (vb : TaggedWord) : Nat := (vb.int % 2 ^ W).toNat

/-- `(ra * 2^s) mod 2^W` (41_alu_tier.md R120), by cases so that a large shift amount is not computed with: "s >= W
gives 0". -/
def shiftLeft (W ra s : Nat) : Nat := if W ≤ s then 0 else ra * 2 ^ s % 2 ^ W

/-- `ra div 2^s` for a payload of W bits (41_alu_tier.md R121), by cases as in `shiftLeft`. -/
def shiftRight (W ra s : Nat) : Nat := if W ≤ s then 0 else ra / 2 ^ s

/-- The result word of a value-producing operation: type and width of the FIRST operand, `r` reduced modulo 2^W,
provenance Computed (41_alu_tier.md R113). -/
def likeFirst (va : TaggedWord) (r : Int) : TaggedWord := TaggedWord.build va.tag va.wd r .computed

/-- ADD (41_alu_tier.md R114). -/
def aluAdd (va vb : TaggedWord) : TaggedWord := likeFirst va (va.raw + broughtTo va.wd vb)

/-- SUB (41_alu_tier.md R115). -/
def aluSub (va vb : TaggedWord) : TaggedWord := likeFirst va ((va.raw : Int) - broughtTo va.wd vb)

/-- MUL (41_alu_tier.md R116). -/
def aluMul (va vb : TaggedWord) : TaggedWord := likeFirst va (va.raw * broughtTo va.wd vb)

/-- AND (41_alu_tier.md R117). -/
def aluAnd (va vb : TaggedWord) : TaggedWord := likeFirst va (va.raw &&& broughtTo va.wd vb : Nat)

/-- OR (41_alu_tier.md R118). -/
def aluOr (va vb : TaggedWord) : TaggedWord := likeFirst va (va.raw ||| broughtTo va.wd vb : Nat)

/-- XOR (41_alu_tier.md R119). -/
def aluXor (va vb : TaggedWord) : TaggedWord := likeFirst va (va.raw ^^^ broughtTo va.wd vb : Nat)

/-- SHL (41_alu_tier.md R120): the amount is the unsigned payload of the second operand. -/
def aluShl (va vb : TaggedWord) : TaggedWord := likeFirst va (shiftLeft va.wd va.raw vb.raw)

/-- SHR (41_alu_tier.md R121): logical, zeros enter from the top whatever the tag. -/
def aluShr (va vb : TaggedWord) : TaggedWord := likeFirst va (shiftRight va.wd va.raw vb.raw)

/-- NOT (41_alu_tier.md R127). -/
def aluNot (va : TaggedWord) : TaggedWord := likeFirst va ((2 ^ va.wd - 1 : Int) - va.raw)

/-- NEG (41_alu_tier.md R128). -/
def aluNeg (va : TaggedWord) : TaggedWord := likeFirst va ((2 ^ va.wd : Int) - va.raw)

/-- The unary ALU function at its default (41_alu_tier.md R112, R127, R128). -/
def aluUnaryFn (op : AluUnaryOp) (va : TaggedWord) : TaggedWord :=
  match op with
  | .not => aluNot va
  | .neg => aluNeg va

/-- NOT or NEG by the parameter ALU_FN (00_scope.md R5): the laws, or another function of the operand, which does not see its
provenance (10_state.md R14, log entry 10). -/
def Params.aluUnary (cfg : Params) (op : AluUnaryOp) (va : TaggedWord) : TaggedWord :=
  match cfg.aluModel with
  | .laws => aluUnaryFn op va
  | .other k => resultWord ((Config.otherAlu k).unary op (eraseWordProv va))

/-- ALU_IMM's second operand: `word(Unsigned, 64, imm, Literal)` (41_alu_tier.md R111). -/
def immOperand (imm : BitVec 6) : TaggedWord := TaggedWord.build .unsigned 64 imm.toNat .literal

end Machine

end Sys2Proof
end

