-- ==== Sys2Proof/Machine/Flags.lean ====
section
/-!
DEFINITION. The R-SPU has no status flags and no condition codes (10_state.md R25): what other machines compute into
flags is here a Bool word in a general register. This file holds the six comparisons (41_alu_tier.md R122 to R125)
and ALU_FN itself (R126).
-/

namespace Sys2Proof.Machine

/-- EQ: `int(va) = int(vb)` (41_alu_tier.md R123). -/
def aluEq (va vb : TaggedWord) : TaggedWord := TaggedWord.ofBool (va.int == vb.int)

/-- NE: `int(va) != int(vb)` (41_alu_tier.md R123). -/
def aluNe (va vb : TaggedWord) : TaggedWord := TaggedWord.ofBool (va.int != vb.int)

/-- LT: `int(va) < int(vb)` (41_alu_tier.md R124). -/
def aluLt (va vb : TaggedWord) : TaggedWord := TaggedWord.ofBool (va.int < vb.int)

/-- LE: `int(va) <= int(vb)` (41_alu_tier.md R124). -/
def aluLe (va vb : TaggedWord) : TaggedWord := TaggedWord.ofBool (va.int ≤ vb.int)

/-- GT: `int(va) > int(vb)` (41_alu_tier.md R125). -/
def aluGt (va vb : TaggedWord) : TaggedWord := TaggedWord.ofBool (vb.int < va.int)

/-- GE: `int(va) >= int(vb)` (41_alu_tier.md R125). -/
def aluGe (va vb : TaggedWord) : TaggedWord := TaggedWord.ofBool (vb.int ≤ va.int)

/-- ALU_FN(op, va, vb) at its default (41_alu_tier.md R126, log entry 10). -/
def aluFn (op : AluOp) (va vb : TaggedWord) : TaggedWord :=
  match op with
  | .add => aluAdd va vb
  | .sub => aluSub va vb
  | .mul => aluMul va vb
  | .and => aluAnd va vb
  | .or => aluOr va vb
  | .xor => aluXor va vb
  | .shl => aluShl va vb
  | .shr => aluShr va vb
  | .eq => aluEq va vb
  | .ne => aluNe va vb
  | .lt => aluLt va vb
  | .le => aluLe va vb
  | .gt => aluGt va vb
  | .ge => aluGe va vb

/-- ALU_FN(op, va, vb) (00_scope.md R5): the laws, or another function of the operation and the two operands, which does not
see their provenance (10_state.md R14, log entry 10). -/
def Params.aluBinary (cfg : Params) (op : AluOp) (va vb : TaggedWord) : TaggedWord :=
  match cfg.aluModel with
  | .laws => aluFn op va vb
  | .other k => resultWord ((Config.otherAlu k).binary op (eraseWordProv va) (eraseWordProv vb))

end Sys2Proof.Machine
end

