-- ==== Sys2Proof/Machine/Ops.lean ====
section
/-!
DEFINITION. The named operations over the register file, the guard units, the ports and the exception mechanism, which
every meaning is written with (the primitives of 00_scope.md R7).

There is no return from an exception: no instruction returns, no action restores a pc, none is saved, and nothing
lowers `depth` (60_exceptions.md R240, log entry 21). So `State.raise` has no counterpart here.
-/

namespace Sys2Proof

/-! ## One guard unit (10_state.md R23) -/

/-- The kind of a unit (10_state.md R23). -/
def GuardUnit.kind (u : GuardUnit) : GuardKind :=
  match u with
  | .unconfigured _ _ _ => .unconfigured
  | .sr _ _ _ _ => .sr
  | .ctr _ _ _ _ => .ctr

/-- The samples a shift register starts with (42_temporal_tier.md R142): "length copies of false". -/
def srFresh (n : Nat) : List Bool := List.replicate n false

/-- The samples after a shift-register tick that samples `c` (42_temporal_tier.md R143): the newest enters at index 0, the
oldest leaves. A unit of length 0, which only the host can leave, holds no samples before and after (log entry 32). -/
def srShift (c : Bool) (bits : List Bool) : List Bool := (c :: bits).take bits.length

/-- The count after a counter tick that samples `c` (42_temporal_tier.md R146): down to 0 on a true sample, reloaded on a
false one. -/
def ctrCount (c : Bool) (n count : Nat) : Nat := if c then count - 1 else n

/-- GUARD_MODEL at its default (42_temporal_tier.md R141 to R147): every one of the last n samples was true; the count has
reached 0. -/
def lawGuards : GuardFunctions where
  srInit n := srFresh n
  srTick c _ bits := srShift c bits
  srActive _ bits := bits.all id
  ctrInit n := n
  ctrTick c n count := ctrCount c n count
  ctrActive _ count := count == 0

/-- GUARD_MODEL (00_scope.md R5): the laws, or other functions (log entry 11). -/
def Machine.Params.guardFns (cfg : Machine.Params) : GuardFunctions :=
  match cfg.guardModel with
  | .laws => lawGuards
  | .other k => Config.otherGuards k

/-- `active(g)` (42_temporal_tier.md R141). The rule states none for an Unconfigured unit: a free value (log entry 31). -/
def GuardUnit.active (fns : GuardFunctions) (u : GuardUnit) : Bool :=
  match u with
  | .unconfigured cond n _ => Config.unconfiguredActive cond n
  | .sr _ n bits _ => fns.srActive n bits
  | .ctr _ n count _ => fns.ctrActive n count

/-- The deadline armed on a unit. -/
def GuardUnit.deadline (u : GuardUnit) : Option Nat :=
  match u with
  | .unconfigured _ _ dl => dl
  | .sr _ _ _ dl => dl
  | .ctr _ _ _ dl => dl

/-- The unit with its deadline replaced. -/
def GuardUnit.withDeadline (dl : Option Nat) (u : GuardUnit) : GuardUnit :=
  match u with
  | .unconfigured cond n _ => .unconfigured cond n dl
  | .sr cond n bits _ => .sr cond n bits dl
  | .ctr cond n count _ => .ctr cond n count dl

/-- A deadline within the range of 10_state.md R23: `Some r with r >= 1`. -/
def deadlineLegal (dl : Option Nat) : Bool :=
  match dl with
  | none => true
  | some r => 1 ≤ r

/-- A unit within the ranges that 10_state.md R23 gives its fields: n of 0..255, n samples, a count of 0..n. What the
samples and the count of another GUARD_MODEL hold is that model's own (log entry 11). -/
def GuardUnit.legal (m : Machine.GuardModel) (u : GuardUnit) : Bool :=
  match u with
  | .unconfigured _ n dl => n ≤ 255 && deadlineLegal dl
  | .sr _ n bits dl => n ≤ 255 && (m != .laws || bits.length == n) && deadlineLegal dl
  | .ctr _ n count dl => n ≤ 255 && (m != .laws || count ≤ n) && deadlineLegal dl

namespace Machine

/-! ## Registers, units, ports -/

/-- `x[i]`, read without any check (00_scope.md R7). -/
def State.reg (s : State) (i : RegId) : TaggedWord := s.regs[i.toNat]'(by have := i.isLt; omega)

/-- `x[i] <- v` (00_scope.md R7). -/
def State.setReg (s : State) (i : RegId) (v : TaggedWord) : State :=
  { s with regs := s.regs.set i.toNat v (by have := i.isLt; omega) }

/-- `G[g]`; none for a GuardId of 64 to 255, which names no unit (10_state.md R22). -/
def State.unit? (s : State) (g : GuardId) : Option GuardUnit := s.guards[g.toNat]?

/-- `G[g] <- u`; nothing for a GuardId that names no unit. -/
def State.setUnit (s : State) (g : GuardId) (u : GuardUnit) : State :=
  { s with guards := s.guards.setIfInBounds g.toNat u }

/-- The word an output port shows (10_state.md R34). -/
def State.port (s : State) (p : PortId) : Option TaggedWord := s.outport[p.toNat]'(by have := p.isLt; omega)

/-- `PortWrite(p, v)` (20_memory.md R45): the whole word is driven and the event recorded. -/
def State.portWrite (s : State) (p : PortId) (v : TaggedWord) : State :=
  { s with
    outport := s.outport.set p.toNat (some v) (by have := p.isLt; omega)
    outlog := s.outlog ++ [{ cycle := s.cycle, port := p, word := v }] }

/-- IN_PORT_TYPE(p) (00_scope.md R5): (Unsigned, 64) unless the parameters say otherwise. -/
def Params.portType (cfg : Params) (p : PortId) : PortType :=
  match cfg.inPortTypes.find? fun e => e.1 == p with
  | some e => e.2
  | none => { tag := .unsigned, w := 64 }

/-! ## Completing, raising -/

/-- `pc <- pc + 1` (10_state.md R20). -/
def State.advance (s : State) : State := { s with pc := s.pc + 1 }

/-- An instruction completes (10_state.md R20). -/
def complete (s : State) : Result := .next s.advance

/-- An instruction completes by writing one register. -/
def writeReg (dst : RegId) (v : TaggedWord) (s : State) : Result := complete (s.setReg dst v)

/-- The first entry of the handler table for an exception (60_exceptions.md R225: "Linear scan"). -/
def Params.handlerFor (cfg : Params) (c : ExcCode) : Option HandlerEntry :=
  cfg.handlers.find? fun e => e.code == c.number

/-- What a matching handler entry does (60_exceptions.md R233, R234, R236 to R238). `resume` is the pc at which
IgnoreAndContinue goes on. -/
def State.handle (s : State) (c : ExcCode) (resume : Nat) (e : HandlerEntry) : State :=
  match e.action with
  | none => { s with depth := s.depth + 1, pc := e.address }
  | some .emergencyStop => { s with run := .emergencyStopped (.action c) }
  | some .ignoreAndContinue => { s with exc := none, pc := resume }
  | some .trapToHost => { s with mode := .host, run := .trappedToHost c }
  | some .halt => { s with run := .haltedByException c }

/-- What happens when no entry matches (60_exceptions.md R235, R239): the default of the current mode. -/
def State.unhandled (s : State) (c : ExcCode) : State :=
  match s.mode with
  | .reflex => { s with run := .emergencyStopped (.unhandled c) }
  | .host => { s with run := .trappedToHost c }

/-- `raise E`: taking an exception (60_exceptions.md R230). The code is recorded; at depth 8 the machine stops before
the table is searched (R228); otherwise the first matching entry, or the mode's default, decides. Nothing else is
saved (R222). `resume` is p + 1 for an instruction's exception, and the pc already computed for a DeadlineMiss
(47_temporal_extension.md R212). -/
def State.raise (s : State) (c : ExcCode) (resume : Nat) : State :=
  let t := { s with exc := some c }
  if t.depth = Config.maxExceptionDepth then
    { t with run := .emergencyStopped (.depthOverflow c) }
  else
    match t.cfg.handlerFor c with
    | some e => t.handle c resume e
    | none => t.unhandled c

/-- An instruction raises an exception, with no other effect (60_exceptions.md R231). -/
def raiseExc (c : ExcCode) (s : State) : Result := .next (s.raise c (s.pc + 1))

/-- `rd(i)`, the checked read, and what the instruction does with the word (10_state.md R16). -/
def checkedRead (i : RegId) (s : State) (k : TaggedWord → Result) : Result :=
  if (s.reg i).tag = .uninitialized then raiseExc .registerUninitialized s else k (s.reg i)

/-! ## Guard operands (42_temporal_tier.md R140) -/

/-- The check of a guard operand that needs a configured unit of either kind. -/
def withConfigured (g : GuardId) (s : State) (k : GuardUnit → Result) : Result :=
  match s.unit? g with
  | none => .refused .guardIndexOutOfBounds
  | some (.unconfigured _ _ _) => .refused .guardNotConfigured
  | some u => k u

/-- The check of a guard operand that needs a unit of kind SR. -/
def withSr (g : GuardId) (s : State) (k : RegId → Nat → List Bool → Option Nat → Result) : Result :=
  match s.unit? g with
  | none => .refused .guardIndexOutOfBounds
  | some (.sr cond n bits dl) => k cond n bits dl
  | some (.unconfigured _ _ _) => .refused .guardNotConfigured
  | some (.ctr _ _ _ _) => .refused .guardNotConfigured

/-- The check of a guard operand that needs a unit of kind CTR. -/
def withCtr (g : GuardId) (s : State) (k : RegId → Nat → Nat → Option Nat → Result) : Result :=
  match s.unit? g with
  | none => .refused .guardIndexOutOfBounds
  | some (.ctr cond n count dl) => k cond n count dl
  | some (.unconfigured _ _ _) => .refused .guardNotConfigured
  | some (.sr _ _ _ _) => .refused .guardNotConfigured

end Machine

end Sys2Proof
end

