-- ==== Sys2Proof/Machine/Cycle.lean ====
section
/-!
DEFINITION. The parts of a cycle before the instruction executes (70_reset_and_hazards.md R280 parts 0 to 4): what must be
in place, the host's action, the end of the program, the fetch and the decoding; and loading a program file.
-/

namespace Sys2Proof.Machine

/-! ## What must be in place (70_reset_and_hazards.md R272) -/

/-- A well-formed handler entry for a program of `len` instructions (60_exceptions.md R224). -/
def HandlerEntry.legal (len : Nat) (e : HandlerEntry) : Bool := 1 ≤ e.code && e.code ≤ 6 && e.address < len

/-- Why a run with these parameters is not started (93_implementation_defined.md U28, U29): PROGRAM empty or longer than
4,096 instructions, HANDLER_TABLE with more than 16 entries or an ill-formed one (log entry 14). -/
def Params.refusal (cfg : Params) : Option Refusal :=
  if cfg.program.length = 0 ∨ Config.maxInstructions < cfg.program.length then some .badProgram
  else if Config.maxTrapHandlers < cfg.handlers.length ∨ ¬ cfg.handlers.all (HandlerEntry.legal cfg.program.length) then
    some .badHandlerTable
  else none

/-! ## The host between instructions (60_exceptions.md R252) -/

/-- What a host action can see and change. -/
def State.hostView (s : State) : HostView := { regs := s.regs, guards := s.guards, exc := s.exc, pc := s.pc }

/-- What a host action leaves is a state of the machine: register and unit fields within their ranges (log entry 7). -/
def hostLegal (cfg : Params) (v : HostView) : Bool :=
  v.regs.all TaggedWord.legal && v.guards.all (GuardUnit.legal cfg.guardModel)

/-- The state with a host action's changes in place. -/
def State.withHostView (s : State) (v : HostView) : State :=
  { s with regs := v.regs, guards := v.guards, exc := v.exc, pc := v.pc }

/-- Part 0 of a cycle: in host mode the host may act, as its draw for this cycle says; in reflex mode it never does. -/
def State.hostPhase (s : State) : State :=
  match s.mode with
  | .reflex => s
  | .host =>
    let v := Config.hostInterrupt s.cycle s.hostView
    if hostLegal s.cfg v then s.withHostView v else s

/-! ## The end of the program (70_reset_and_hazards.md R283) -/

/-- A tick boundary (42_temporal_tier.md R157): the register file is put at the front of the history, the pc returns to 0. -/
def State.tickBoundary (s : State) : State := { s with hist := s.regs :: s.hist, tick := s.tick + 1, pc := 0 }

/-- Part 2 of a cycle: END_OF_PROGRAM at or past the last instruction; none is the fault (log entry 17). -/
def State.endOfProgram (s : State) : Option State :=
  if s.pc < s.cfg.program.length then some s
  else
    match s.cfg.endOfProgram with
    | .fault => none
    | .wrap => some s.tickBoundary

/-! ## Fetch and decode -/

/-- Part 3 of a cycle: the word at the pc (10_state.md R19). -/
def State.fetchWord (s : State) : Option Word := s.cfg.program[s.pc]?

/-! ## Loading a program file (20_memory.md R47) -/

/-- The word that four consecutive bytes of a program file spell. -/
def wordOfBytes (order : ByteOrder) (b0 b1 b2 b3 : BitVec 8) : Word :=
  match order with
  | .little => b3 ++ b2 ++ b1 ++ b0
  | .big => b0 ++ b1 ++ b2 ++ b3

/-- The words of a program file; none if its length is no multiple of four. -/
def wordsOfBytes (order : ByteOrder) : List (BitVec 8) → Option (List Word)
  | [] => some []
  | b0 :: b1 :: b2 :: b3 :: rest => (wordsOfBytes order rest).map fun ws => wordOfBytes order b0 b1 b2 b3 :: ws
  | [_] => none
  | [_, _] => none
  | [_, _, _] => none

/-- The bytes of a word in a program file. -/
def bytesOfWord (order : ByteOrder) (w : Word) : List (BitVec 8) :=
  let big := [w.extractLsb' 24 8, w.extractLsb' 16 8, w.extractLsb' 8 8, w.extractLsb' 0 8]
  match order with
  | .big => big
  | .little => big.reverse

/-- A serialised program in the hardware's byte order, which the spec leaves open (log entry 9). -/
def loadProgramFile (bytes : List (BitVec 8)) (cfg : Params) : Option Params :=
  (wordsOfBytes Config.wordByteOrder bytes).map fun ws => { cfg with program := ws }

end Sys2Proof.Machine
end

