-- ==== Sys2Proof/Machine/Alu.lean ====
section
/-!
DEFINITION. The ALU tier, opcodes 4 to 6 (41_alu_tier.md R110 to R112). No operation raises an exception of its own, and
none divides (R129).
-/

namespace Sys2Proof.Machine

/-- ALU (R110): both operands are read before dst is written. -/
def execAlu (op : BitVec 4) (dst a b : RegId) (s : State) : Result :=
  match AluOp.ofCode op with
  | none => .refused .reservedAluOp
  | some o => checkedRead a s fun va => checkedRead b s fun vb => writeReg dst (s.cfg.aluBinary o va vb) s

/-- ALU_IMM (R111): the immediate is the second operand. -/
def execAluImm (op : BitVec 4) (dst a : RegId) (imm : BitVec 6) (s : State) : Result :=
  match AluOp.ofCode op with
  | none => .refused .reservedAluOp
  | some o => checkedRead a s fun va => writeReg dst (s.cfg.aluBinary o va (immOperand imm)) s

/-- ALU_UNARY (R112). -/
def execAluUnary (op : BitVec 2) (dst src : RegId) (s : State) : Result :=
  match AluUnaryOp.ofCode op with
  | none => .refused .reservedAluOp
  | some o => checkedRead src s fun va => writeReg dst (s.cfg.aluUnary o va) s

end Sys2Proof.Machine
end

