-- ==== Sys2Proof/Machine/Control.lean ====
section
/-!
DEFINITION. The Control tier, opcodes 23, 27 and 28 (45_control_tier.md R190 to R192).
-/

namespace Sys2Proof.Machine

/-- MODE_SWITCH (R190). To host mode: allowed at any point. To reflex mode: the environment's quiescence answer in this
cycle decides (log entry 6); without quiescence UserTrap is raised, in host mode. -/
def execModeSwitch (target : BitVec 26) (s : State) : Result :=
  match Mode.ofNumber target.toNat with
  | none => .refused .badMode
  | some m =>
    if m = s.mode then .refused .modeSwitchToCurrentMode
    else
      match m with
      | .host => complete { s with mode := .host }
      | .reflex => if Config.quiescent s.cycle then complete { s with mode := .reflex } else raiseExc .userTrap s

/-- NOP (R191). -/
def execNop (s : State) : Result := complete s

/-- FENCE (R192, 20_memory.md R52): every prior write is already visible, so it only takes its cycle. -/
def execFence (s : State) : Result := complete s

end Sys2Proof.Machine
end

