-- ==== Sys2Proof/Machine/Deadline.lean ====
section
/-!
DEFINITION. The Temporal extension: DEADLINE_SET, opcode 29, and the end-of-cycle deadline step
(47_temporal_extension.md R210 to R212).
-/

namespace Sys2Proof.Machine

/-- DEADLINE_SET (R210): replaces any deadline armed on the unit. -/
def execDeadlineSet (guard : GuardId) (maxCycles : BitVec 18) (s : State) : Result :=
  withConfigured guard s fun u =>
    if maxCycles.toNat = 0 then .refused .zeroDeadline
    else complete (s.setUnit guard (u.withDeadline (some maxCycles.toNat)))

/-- The unit whose deadline the instruction arms, and whose counter therefore skips this cycle (R211). -/
def armedUnit (i : Instr) : Option Nat :=
  match i with
  | .deadlineSet g _ => some g.toNat
  | .loadInput _ _ | .storeOutput _ _ | .mov _ _ | .loadImm _ _ _ | .alu _ _ _ _ | .aluImm _ _ _ _ | .aluUnary _ _ _
  | .srInit _ _ _ | .srTick _ | .srQuery _ _ | .ctrInit _ _ _ | .ctrTick _ | .ctrQuery _ _ | .guardAnd _ _ _
  | .guardOr _ _ _ | .reflexIf _ _ _ | .prev _ _ _ | .emergencyStop | .assertAlways _ _ | .assertNever _ _ | .trap _
  | .trapIf _ _ | .halt _ | .modeSwitch _ | .tagLoad _ _ | .tagCheck _ _ | .tagRead _ _ | .nop | .fence => none

/-- One unit's counter at the end of a cycle (R211): met, missed or counted down. -/
def unitCountDeadline (fns : GuardFunctions) (u : GuardUnit) : GuardUnit :=
  match u.deadline with
  | none => u
  | some r =>
    if u.active fns then u.withDeadline none
    else if r ≤ 1 then u.withDeadline none
    else u.withDeadline (some (r - 1))

/-- One unit's deadline expires at the end of this cycle (R211): its counter reaches zero with the guard inactive. -/
def unitMisses (fns : GuardFunctions) (u : GuardUnit) : Bool :=
  match u.deadline with
  | none => false
  | some r => !u.active fns && r ≤ 1

/-- The units after the end-of-cycle step; the unit `armed` skips it (R211). -/
def countDeadlines (fns : GuardFunctions) (armed : Option Nat) (guards : GuardFile) : GuardFile :=
  guards.mapIdx fun k u => if armed = some k then u else unitCountDeadline fns u

/-- Some deadline expires in this cycle (R211). -/
def anyMiss (fns : GuardFunctions) (armed : Option Nat) (guards : GuardFile) : Bool :=
  (List.finRange 64).any fun k => armed != some k.val && unitMisses fns guards[k]

/-- The end-of-cycle deadline step (R211): every unit is updated, and then DeadlineMiss is raised once if any deadline
expired. IgnoreAndContinue goes on at the pc already computed (R212). -/
def deadlineStep (armed : Option Nat) (s : State) : State :=
  let t := { s with guards := countDeadlines s.cfg.guardFns armed s.guards }
  if anyMiss s.cfg.guardFns armed s.guards then t.raise .deadlineMiss t.pc else t

/-- The end of the cycle of instruction `i`, fetched in mode `m0` (70_reset_and_hazards.md R280 parts 6 and 7): the
deadline step, if the machine still runs and the cycle began in reflex mode, and the cycle count. -/
def endOfCycle (m0 : Mode) (i : Instr) (s : State) : State :=
  let t := if s.run = .running ∧ m0 = .reflex then deadlineStep (armedUnit i) s else s
  { t with cycle := t.cycle + 1 }

end Sys2Proof.Machine
end

