-- ==== Sys2Proof/Machine/Exception.lean ====
section
/-!
DEFINITION. The Exception tier, opcodes 20 to 22 (44_exception_tier.md R180 to R182). The mechanism is `State.raise`
(Machine/Ops.lean).
-/

namespace Sys2Proof.Machine

/-- TRAP (R180): the operand is the code raised; 0 and 7 upward are refused. -/
def execTrap (code : BitVec 26) (s : State) : Result :=
  match ExcCode.ofNumber code.toNat with
  | none => .refused .badExceptionCode
  | some c => raiseExc c s

/-- TRAP_IF (R181): the code is checked even when the condition is false; an uninitialized condition raises code 2. -/
def execTrapIf (cond : RegId) (code : BitVec 18) (s : State) : Result :=
  match ExcCode.ofNumber code.toNat with
  | none => .refused .badExceptionCode
  | some c => checkedRead cond s fun v => if v.truth then raiseExc c s else complete s

/-- HALT (R182): the pc is not advanced; no handler, depth or exc is touched. -/
def execHalt (exitCode : BitVec 26) (s : State) : Result := .next { s with run := .halted exitCode }

end Sys2Proof.Machine
end

