-- ==== Sys2Proof/Machine/Register.lean ====
section
/-!
DEFINITION. The Register tier, opcodes 0 to 3 (40_register_tier.md R100 to R103).
-/

namespace Sys2Proof.Machine

/-- LOAD_INPUT (R100): the payload is the port's answer in this cycle (log entry 5), all 64 bits of it whatever the
port's width; tag and width are IN_PORT_TYPE(port); the provenance is Input(port). -/
def execLoadInput (dst : RegId) (port : PortId) (s : State) : Result :=
  if s.cfg.nInPorts ≤ port.toNat then .refused .portOutOfRange
  else
    writeReg dst
      { value := Config.portRead s.cycle port
        tag := (s.cfg.portType port).tag
        w := (s.cfg.portType port).w
        prov := .input port } s

/-- STORE_OUTPUT (R101). -/
def execStoreOutput (src : RegId) (port : PortId) (s : State) : Result :=
  if s.cfg.nOutPorts ≤ port.toNat then .refused .portOutOfRange
  else checkedRead src s fun v => complete (s.portWrite port v)

/-- MOV (R102): the whole tagged word is copied. -/
def execMov (dst src : RegId) (s : State) : Result :=
  checkedRead src s fun v => writeReg dst v s

/-- LOAD_IMM (R103). -/
def execLoadImm (dst : RegId) (value : BitVec 10) (width : BitVec 8) (s : State) : Result :=
  if width.toNat = 0 ∨ 64 < width.toNat then .refused .badWidth
  else writeReg dst (TaggedWord.build .unsigned width.toNat value.toNat .literal) s

end Sys2Proof.Machine
end

