-- ==== Sys2Proof/Machine/SafetyTier.lean ====
section
/-!
DEFINITION. The Safety tier, opcodes 17 to 19 (43_safety_tier.md R170 to R172).
-/

namespace Sys2Proof.Machine

/-- EMERGENCY_STOP (R170): no exception; the pc is not advanced; everything else keeps its value. -/
def execEmergencyStop (s : State) : Result := .next { s with run := .emergencyStopped .instruction }

/-- An assertion that fails when the truth of its condition is `bad` (R171, R172): without ASSERT_CHECKED it reads
nothing and completes. -/
def assertUnless (bad : Bool) (cond : RegId) (s : State) : Result :=
  if s.cfg.assertChecked then
    checkedRead cond s fun v => if v.truth = bad then raiseExc .assertionViolation s else complete s
  else complete s

/-- ASSERT_ALWAYS (R171): property_id has no effect. -/
def execAssertAlways (cond : RegId) (_propertyId : BitVec 18) (s : State) : Result := assertUnless false cond s

/-- ASSERT_NEVER (R172): property_id has no effect. -/
def execAssertNever (cond : RegId) (_propertyId : BitVec 18) (s : State) : Result := assertUnless true cond s

end Sys2Proof.Machine
end

