-- ==== Sys2Proof/Machine/Tagged.lean ====
section
/-!
DEFINITION. The Tagged tier, opcodes 24 to 26 (46_tagged_tier.md R200 to R202). A tag operand carries no width, and none
is set or compared.
-/

namespace Sys2Proof.Machine

/-- TAG_LOAD (R200): only the tag field changes; the register is not read. -/
def execTagLoad (dst : RegId) (tagValue : BitVec 4) (s : State) : Result :=
  match Tag.ofCode tagValue with
  | none => .refused .reservedTag
  | some t => writeReg dst { s.reg dst with tag := t } s

/-- TAG_CHECK (R201): an unchecked read of the tag field. -/
def execTagCheck (src : RegId) (expectedTag : BitVec 4) (s : State) : Result :=
  match Tag.ofCode expectedTag with
  | none => .refused .reservedTag
  | some t => if (s.reg src).tag ≠ t then raiseExc .tagMismatch s else complete s

/-- TAG_READ (R202): an unchecked read of the tag field, into an Unsigned word of 4 bits. -/
def execTagRead (dst src : RegId) (s : State) : Result :=
  writeReg dst (TaggedWord.build .unsigned 4 (s.reg src).tag.code.toNat .computed) s

end Sys2Proof.Machine
end

