-- ==== Sys2Proof/Machine/Temporal.lean ====
section
/-!
DEFINITION. The Temporal tier, opcodes 7 to 16 (42_temporal_tier.md R140 to R157). What a unit starts with,
what a tick makes of it and when it is active is the parameter GUARD_MODEL (log entry 11).
-/

namespace Sys2Proof.Machine

/-- SR_INIT (R142): by the laws all samples are false; an armed deadline is left as it was; cond is named, not read. -/
def execSrInit (guard : GuardId) (length : BitVec 8) (cond : RegId) (s : State) : Result :=
  match s.unit? guard with
  | none => .refused .guardIndexOutOfBounds
  | some u =>
    if length.toNat = 0 then .refused .zeroLengthGuard
    else complete (s.setUnit guard (.sr cond length.toNat (s.cfg.guardFns.srInit length.toNat) u.deadline))

/-- SR_TICK (R143): in reflex mode the condition register is sampled and shifted in; in host mode nothing is read or
changed (R150). -/
def execSrTick (guard : GuardId) (s : State) : Result :=
  withSr guard s fun cond n bits dl =>
    match s.mode with
    | .host => complete s
    | .reflex =>
      checkedRead cond s fun v => complete (s.setUnit guard (.sr cond n (s.cfg.guardFns.srTick v.truth n bits) dl))

/-- SR_QUERY (R144). -/
def execSrQuery (dst : RegId) (guard : GuardId) (s : State) : Result :=
  withSr guard s fun cond n bits dl =>
    writeReg dst (TaggedWord.ofBool (GuardUnit.active s.cfg.guardFns (.sr cond n bits dl))) s

/-- CTR_INIT (R145): by the laws the counter starts at the target; an armed deadline is left as it was; cond is not read. -/
def execCtrInit (guard : GuardId) (target : BitVec 8) (cond : RegId) (s : State) : Result :=
  match s.unit? guard with
  | none => .refused .guardIndexOutOfBounds
  | some u =>
    if target.toNat = 0 then .refused .zeroLengthGuard
    else complete (s.setUnit guard (.ctr cond target.toNat (s.cfg.guardFns.ctrInit target.toNat) u.deadline))

/-- CTR_TICK (R146): in reflex mode the condition register is sampled and the count moves; in host mode nothing is read
or changed (R150). -/
def execCtrTick (guard : GuardId) (s : State) : Result :=
  withCtr guard s fun cond n count dl =>
    match s.mode with
    | .host => complete s
    | .reflex =>
      checkedRead cond s fun v => complete (s.setUnit guard (.ctr cond n (s.cfg.guardFns.ctrTick v.truth n count) dl))

/-- CTR_QUERY (R147): the activation, not the count. -/
def execCtrQuery (dst : RegId) (guard : GuardId) (s : State) : Result :=
  withCtr guard s fun cond n count dl =>
    writeReg dst (TaggedWord.ofBool (GuardUnit.active s.cfg.guardFns (.ctr cond n count dl))) s

/-- GUARD_AND (R148). -/
def execGuardAnd (dst : RegId) (a b : GuardId) (s : State) : Result :=
  withConfigured a s fun ua => withConfigured b s fun ub =>
    writeReg dst (TaggedWord.ofBool (ua.active s.cfg.guardFns && ub.active s.cfg.guardFns)) s

/-- GUARD_OR (R149). -/
def execGuardOr (dst : RegId) (a b : GuardId) (s : State) : Result :=
  withConfigured a s fun ua => withConfigured b s fun ub =>
    writeReg dst (TaggedWord.ofBool (ua.active s.cfg.guardFns || ub.active s.cfg.guardFns)) s

/-- REFLEX_IF (R155): src is read only when the guard is active. -/
def execReflexIf (guard : GuardId) (dst src : RegId) (s : State) : Result :=
  withConfigured guard s fun u =>
    if u.active s.cfg.guardFns then checkedRead src s fun v => writeReg dst v s
    else complete s

/-- The word PREV reads (R156): the current register at delay 0; the snapshot `delay` tick boundaries ago; none where no
tick that old exists (log entry 16). -/
def State.prevWord? (s : State) (signal : RegId) (delay : Nat) : Option TaggedWord :=
  if delay = 0 then some (s.reg signal)
  else if delay ≤ s.tick then
    match s.hist[delay - 1]? with
    | some snap => some (snap[signal.toNat]'(by have := signal.isLt; omega))
    | none => none
  else none

/-- PREV (R156). -/
def execPrev (dst signal : RegId) (delay : BitVec 8) (s : State) : Result :=
  match s.prevWord? signal delay.toNat with
  | none => .refused .prevBeforeStart
  | some v => if v.tag = .uninitialized then raiseExc .registerUninitialized s else writeReg dst v s

end Sys2Proof.Machine
end

