-- ==== Sys2Proof/Machine/Dispatch.lean ====
section
/-!
DEFINITION. The dispatch: one arm per instruction, each one direct call of its meaning (70_reset_and_hazards.md R280 part 5).
-/

namespace Sys2Proof.Machine

def exec (i : Instr) (s : State) : Host.Outcome State Fault Refusal :=
  match i with
  | .loadInput dst port => Sys2Proof.Machine.execLoadInput dst port s
  | .storeOutput src port => Sys2Proof.Machine.execStoreOutput src port s
  | .mov dst src => Sys2Proof.Machine.execMov dst src s
  | .loadImm dst value width => Sys2Proof.Machine.execLoadImm dst value width s
  | .alu op dst a b => Sys2Proof.Machine.execAlu op dst a b s
  | .aluImm op dst a imm => Sys2Proof.Machine.execAluImm op dst a imm s
  | .aluUnary op dst src => Sys2Proof.Machine.execAluUnary op dst src s
  | .srInit guard length cond => Sys2Proof.Machine.execSrInit guard length cond s
  | .srTick guard => Sys2Proof.Machine.execSrTick guard s
  | .srQuery dst guard => Sys2Proof.Machine.execSrQuery dst guard s
  | .ctrInit guard target cond => Sys2Proof.Machine.execCtrInit guard target cond s
  | .ctrTick guard => Sys2Proof.Machine.execCtrTick guard s
  | .ctrQuery dst guard => Sys2Proof.Machine.execCtrQuery dst guard s
  | .guardAnd dst a b => Sys2Proof.Machine.execGuardAnd dst a b s
  | .guardOr dst a b => Sys2Proof.Machine.execGuardOr dst a b s
  | .reflexIf guard dst src => Sys2Proof.Machine.execReflexIf guard dst src s
  | .prev dst signal delay => Sys2Proof.Machine.execPrev dst signal delay s
  | .emergencyStop => Sys2Proof.Machine.execEmergencyStop s
  | .assertAlways cond pid => Sys2Proof.Machine.execAssertAlways cond pid s
  | .assertNever cond pid => Sys2Proof.Machine.execAssertNever cond pid s
  | .trap code => Sys2Proof.Machine.execTrap code s
  | .trapIf cond code => Sys2Proof.Machine.execTrapIf cond code s
  | .halt exitCode => Sys2Proof.Machine.execHalt exitCode s
  | .modeSwitch target => Sys2Proof.Machine.execModeSwitch target s
  | .tagLoad dst tagValue => Sys2Proof.Machine.execTagLoad dst tagValue s
  | .tagCheck src expectedTag => Sys2Proof.Machine.execTagCheck src expectedTag s
  | .tagRead dst src => Sys2Proof.Machine.execTagRead dst src s
  | .nop => Sys2Proof.Machine.execNop s
  | .fence => Sys2Proof.Machine.execFence s
  | .deadlineSet guard maxCycles => Sys2Proof.Machine.execDeadlineSet guard maxCycles s

end Sys2Proof.Machine
end

