-- ==== Sys2Proof/Machine/Step.lean ====
section
/-!
DEFINITION. One cycle of the machine (70_reset_and_hazards.md R280). A machine that is not Running has no transition
(R271). The parts of the cycle are in Machine/Cycle.lean and Machine/Deadline.lean, the meanings behind `exec`.
-/

namespace Sys2Proof.Machine

/-- Parts 3 to 7 of a cycle, from a pc inside the program (70_reset_and_hazards.md R280). -/
def fetchAndExecute (s : State) : Result :=
  match s.fetchWord with
  | none => .fault .fetchOutOfProgram
  | some w =>
    match decode w with
    | .error e => .refused (.illegalWord e)
    | .ok i =>
      match exec i s with
      | .next t => .next (endOfCycle s.mode i t)
      | .fault r => .fault r
      | .refused r => .refused r

/-- One cycle (70_reset_and_hazards.md R280): the parameters are in place, the host may act, the end of the program is
dealt with, the instruction is fetched, decoded and executed, the deadlines are counted. -/
def step (s : State) : Host.Outcome State Fault Refusal :=
  if s.run = .running then
    match s.cfg.refusal with
    | some r => .refused r
    | none =>
      match s.hostPhase.endOfProgram with
      | none => .fault .fetchOutOfProgram
      | some t => fetchAndExecute t
  else .fault .stopped

/-- A program with the word `w` at index `pc`, the rest as it was; a program that is too short is filled up with NOP
words (log entry 25). -/
def programWith (program : List Word) (pc : Nat) (w : Word) : List Word :=
  (program ++ List.replicate (pc + 1 - program.length) (0x6C000000 : Word)).set pc w

/-- The state with a table row's `nbits` bits `w` stored where the next step fetches: the program is loaded from
outside (log entries 1 and 25). -/
def State.withFetchWord (s : State) (nbits w : Nat) : State :=
  { s with cfg := { s.cfg with program := programWith s.cfg.program s.pc (BitVec.ofNat 32 (w % 2 ^ nbits)) } }

end Sys2Proof.Machine
end

