-- ==== Sys2Proof/Safety.lean ====
section
/-!
DEFINITION. The terms in which claims about the machine are stated: the invariant of its states, what an instruction may
change (frames), the ends of a run, and a run bounded by fuel.
-/

namespace Sys2Proof.Machine

/-! ## The ends of a run (70_reset_and_hazards.md R284, 10_state.md R30) -/

/-- The final run states (10_state.md R30). TrappedToHost is the end of what the spec describes, and not final. -/
def RunState.final (r : RunState) : Bool :=
  match r with
  | .running => false
  | .halted _ => true
  | .emergencyStopped _ => true
  | .haltedByException _ => true
  | .trappedToHost _ => false

/-- How a run bounded by fuel ends. Running out of fuel is not a final state and proves nothing about the program
(70_reset_and_hazards.md R285, 93_implementation_defined.md U30). -/
inductive RunEnd where
  | ended (s : State)
  | fault (r : Fault) (s : State)
  | refused (r : Refusal) (s : State)
  | outOfFuel (s : State)
deriving DecidableEq, Repr

/-- A run of at most `fuel` cycles (log entry 29). -/
def simulate : Nat → State → RunEnd
  | 0, s => if s.run = .running then .outOfFuel s else .ended s
  | fuel + 1, s =>
    if s.run = .running then
      match step s with
      | .next t => simulate fuel t
      | .fault r => .fault r s
      | .refused r => .refused r s
    else .ended s

/-! ## Frames: everything but what is named is unchanged -/

/-- From s to t nothing changes but the pc and the register dst. -/
def OnlyReg (dst : RegId) (s t : State) : Prop :=
  t = { s with regs := t.regs, pc := t.pc } ∧ ∀ r, r ≠ dst → t.reg r = s.reg r

/-- From s to t nothing changes but the pc and the guard unit g. -/
def OnlyUnit (g : GuardId) (s t : State) : Prop :=
  t = { s with guards := t.guards, pc := t.pc } ∧ ∀ h, h ≠ g → t.unit? h = s.unit? h

/-- From s to t nothing changes but the pc, the output port p and the event log. -/
def OnlyPort (p : PortId) (s t : State) : Prop :=
  t = { s with outport := t.outport, outlog := t.outlog, pc := t.pc } ∧ ∀ q, q ≠ p → t.port q = s.port q

/-- From s to t nothing changes but what the exception mechanism writes: pc, mode, depth, exc and run. -/
def OnlyControl (s t : State) : Prop :=
  t = { s with pc := t.pc, mode := t.mode, depth := t.depth, exc := t.exc, run := t.run }

/-! ## Which registers an instruction reads -/

/-- The registers that an instruction reads with the checked read in state s (60_exceptions.md R221, the row of code 2).
PREV with a delay of 1 or more reads the history and not a register. -/
def checkedReads (i : Instr) (s : State) : List RegId :=
  match i with
  | .storeOutput src port => if port.toNat < s.cfg.nOutPorts then [src] else []
  | .mov _ src => [src]
  | .alu op _ a b => if isAluOp op then [a, b] else []
  | .aluImm op _ a _ => if isAluOp op then [a] else []
  | .aluUnary op _ src => if isAluUnaryOp op then [src] else []
  | .srTick g =>
    match s.mode, s.unit? g with
    | .reflex, some (.sr cond _ _ _) => [cond]
    | _, _ => []
  | .ctrTick g =>
    match s.mode, s.unit? g with
    | .reflex, some (.ctr cond _ _ _) => [cond]
    | _, _ => []
  | .reflexIf g _ src =>
    match s.unit? g with
    | some u => if u.kind ≠ .unconfigured ∧ u.active s.cfg.guardFns = true then [src] else []
    | none => []
  | .prev _ signal delay => if delay.toNat = 0 then [signal] else []
  | .assertAlways cond _ => if s.cfg.assertChecked then [cond] else []
  | .assertNever cond _ => if s.cfg.assertChecked then [cond] else []
  | .trapIf cond code => if isExcCode code.toNat then [cond] else []
  | .loadInput _ _ | .loadImm _ _ _ | .srInit _ _ _ | .srQuery _ _ | .ctrInit _ _ _ | .ctrQuery _ _ | .guardAnd _ _ _
  | .guardOr _ _ _ | .emergencyStop | .trap _ | .halt _ | .modeSwitch _ | .tagLoad _ _ | .tagCheck _ _ | .tagRead _ _
  | .nop | .fence | .deadlineSet _ _ => []

/-! ## One instruction after another -/

/-- The outcome of `k` on the state that `r` answers; a fault or a refusal of `r` stays. -/
def andThen (r : Result) (k : State → Result) : Result :=
  match r with
  | .next s => k s
  | .fault f => .fault f
  | .refused f => .refused f

/-- One sample taken by two guard units that watch the same register: the register holds `v`, then SR_TICK g and
CTR_TICK h execute. -/
def sampleBoth (g h : GuardId) (cond : RegId) (r : Result) (v : TaggedWord) : Result :=
  andThen (andThen r fun s => exec (.srTick g) (s.setReg cond v)) (exec (.ctrTick h))

/-- The instruction that a step from s executes, and the state it executes in: after the host's action and a tick boundary. -/
def State.fetches (s u : State) (i : Instr) : Prop :=
  s.hostPhase.endOfProgram = some u ∧ ∃ w, u.fetchWord = some w ∧ decode w = .ok i

/-! ## The invariant -/

/-- A type that IN_PORT_TYPE may give a port: not Uninitialized, a width of 1 to 64, width 1 for Bool
(92_eei_decisions.md D10, 93_implementation_defined.md section 2). -/
def PortType.legal (t : PortType) : Bool :=
  t.tag != .uninitialized && 1 ≤ t.w && t.w ≤ 64 && (t.tag != .bool || t.w == 1)

/-- The word that the event log last shows on a port. -/
def lastWord (log : List PortEvent) (p : PortId) : Option TaggedWord :=
  ((log.filter fun e => e.port == p).getLast?).map PortEvent.word

/-- The exception that a stop came from, if it came from one. -/
def RunState.cause (r : RunState) : Option ExcCode :=
  match r with
  | .running => none
  | .halted _ => none
  | .emergencyStopped .instruction => none
  | .emergencyStopped (.unhandled c) => some c
  | .emergencyStopped (.depthOverflow c) => some c
  | .emergencyStopped (.action c) => some c
  | .haltedByException c => some c
  | .trappedToHost c => some c

/-- What holds of the machine in every state of a run. -/
structure State.Inv (s : State) : Prop where
  /-- Every port has a legal type. -/
  portTypes : ∀ e ∈ s.cfg.inPortTypes, e.2.legal = true
  /-- Every register's width lies in 1..64, and its word in MAX_TAGGED_WORD_BITS (10_state.md R12). -/
  regs : ∀ r, (s.reg r).legal = true
  /-- So does every word in the history. -/
  hist : ∀ f ∈ s.hist, ∀ k : Fin 256, (f[k]).legal = true
  /-- There is one snapshot for each tick boundary (10_state.md R33). -/
  ticks : s.hist.length = s.tick
  /-- Every guard unit's fields are within their ranges (10_state.md R23). -/
  units : ∀ k : Fin 64, (s.guards[k]).legal s.cfg.guardModel = true
  /-- The pc lies in the program or just past it (92_eei_decisions.md D38). -/
  pc : s.pc ≤ s.cfg.program.length
  /-- The exception depth is at most 8 (10_state.md R27). -/
  depth : s.depth ≤ Config.maxExceptionDepth
  /-- A port shows the word last written to it, and is Undriven if none was (10_state.md R34). -/
  ports : ∀ p, s.port p = lastWord s.outlog p
  /-- The port events are in order of cycle, at most one a cycle (20_memory.md R45). -/
  logOrder : s.outlog.Pairwise fun d e => d.cycle < e.cycle
  /-- They lie in the past. -/
  logPast : ∀ e ∈ s.outlog, e.cycle < s.cycle
  /-- They name ports that exist. -/
  logPorts : ∀ e ∈ s.outlog, e.port.toNat < s.cfg.nOutPorts
  /-- After a trap to the host the mode is Host (60_exceptions.md R237, R239). -/
  trapped : ∀ c, s.run = .trappedToHost c → s.mode = .host
  /-- A stop that an exception caused leaves its code in exc (60_exceptions.md R230). -/
  stopped : ∀ c, s.run.cause = some c → s.exc = some c
  /-- A depth overflow happens at depth 8 (60_exceptions.md R228). -/
  overflow : ∀ c, s.run = .emergencyStopped (.depthOverflow c) → s.depth = Config.maxExceptionDepth

/-! ## Provenance -/

/-- A state with the provenance of every word it holds erased: registers, history, ports, event log. -/
def State.eraseProv (s : State) : State :=
  { s with
    regs := s.regs.map eraseWordProv
    hist := s.hist.map fun f => f.map eraseWordProv
    outport := s.outport.map fun v => v.map eraseWordProv
    outlog := s.outlog.map fun e => { e with word := eraseWordProv e.word } }

/-- An outcome with the provenance erased. -/
def eraseProvResult (r : Result) : Result :=
  match r with
  | .next t => .next t.eraseProv
  | .fault f => .fault f
  | .refused f => .refused f

end Sys2Proof.Machine
end

