-- ==== Sys2Proof/Certificates/Slice0/Obligations.lean ====
section
/-!
DEFINITION. The statements about the model, in the order of the spec's files.

Almost every rule of the spec carries a mark that makes it the spec's own decision or inference and not the source's word.
A statement that rests on such a rule names it in its docstring with the decision (D<n> of 92_eei_decisions.md) and, where
the model chose, the log entry. The frames OnlyReg, OnlyUnit, OnlyPort and OnlyControl are in Sys2Proof/Safety.lean:
each says that every field of State that it does not name is unchanged. The machine has no data memory and no flags
(20_memory.md R40, 10_state.md R25), so a frame speaks of registers, guard units, ports and control state.
-/

section

open Sys2Proof Sys2Proof.Machine

/-! ## Encoding (30_encoding.md) -/

/-- 30_encoding.md R66 to R68, R72 (D3 to D6, log entries 8 and 12). ALU has a word only where ALU_OP_PLACEMENT, which the
spec leaves open, gives it one. -/
def Obligations.DecodeOfEncode : Prop :=
  ∀ i : Instr, i.wellFormed = true →
    (∀ w, encode i = some w → decode w = .ok i) ∧ (i.opcode ≠ 4 → ∃ w, encode i = some w ∧ decode w = .ok i)

/-- 30_encoding.md R66 to R68, R71, R72 (D3 to D6, log entries 8 and 12): every word that decodes is the word of its
instruction; for ALU, whose operation number has no settled place, some word of it is. -/
def Obligations.EncodeOfDecode : Prop :=
  ∀ (w : Word) (i : Instr), decode w = .ok i →
    i.wellFormed = true ∧ (i.opcode ≠ 4 → encode i = some w) ∧ (∃ w', encode i = some w' ∧ decode w' = .ok i)

/-- 30_encoding.md R60. -/
def Obligations.TopSixBitsSelectTheInstruction : Prop :=
  ∀ (w : Word) (i : Instr), decode w = .ok i → i.opcode = (w >>> 26).toNat

/-- 30_encoding.md R71, R80, R83 (D6): the strict masks of spec/opcode_table.json, in opcode order; opcodes 30 to 63 are
rejected. -/
def Obligations.AcceptedWordsObeyTheOpcodeTable : Prop :=
  (∀ (w : Word) (i : Instr), decode w = .ok i →
    w &&& (([0xFC03FC00, 0xFFFC0000, 0xFC0003FF, 0xFC000000, 0xFC000000, 0xFC000000, 0xFC0003FC, 0xFC000003, 0xFC03FFFF,
      0xFC0003FF, 0xFC000003, 0xFC03FFFF, 0xFC0003FF, 0xFC000003, 0xFC000003, 0xFC000003, 0xFC000003, 0xFFFFFFFF,
      0xFC000000, 0xFC000000, 0xFC000000, 0xFC000000, 0xFC000000, 0xFC000000, 0xFC03C3FF, 0xFFFC03C3, 0xFC0003FF,
      0xFFFFFFFF, 0xFFFFFFFF, 0xFC000000] : List Word).getD i.opcode 0) = BitVec.ofNat 32 (i.opcode * 2 ^ 26)) ∧
  ∀ w : Word, 30 ≤ (w >>> 26).toNat → decode w = .error .unassignedOpcode

/-- Words of 95_test_vectors.md E1 and E2, a sanity check of the decoder (placement: 30_encoding.md R66, D3, log entry 12). -/
def Obligations.DecodesTheSpecsWords : Prop :=
  decode 0x03FC003F = .ok (.loadInput 255 63) ∧ decode 0x0B219000 = .ok (.mov 200 100) ∧
  decode 0x17000332 = .ok (.aluImm 12 192 0 50) ∧ decode 0x28060320 = .ok (.ctrInit 1 200 128) ∧
  decode 0x38FFFCF8 = .ok (.guardOr 255 63 62) ∧ decode 0x4FFFFFFF = .ok (.assertNever 255 262143) ∧
  decode 0x57000006 = .ok (.trapIf 192 6) ∧ decode 0x5C000001 = .ok (.modeSwitch 1) ∧
  decode 0x6403FC3C = .ok (.tagCheck 255 15) ∧ decode 0x74FFFFFF = .ok (.deadlineSet 63 262143) ∧
  decode 0x20000001 = .error .nonZeroUnusedField ∧ decode 0x14000380 = .error .reservedAluOp ∧
  decode 0x64000020 = .error .reservedTag ∧ decode 0x21000000 = .error .guardIndexOutOfBounds

/-! ## The step (70_reset_and_hazards.md) -/

/-- 70_reset_and_hazards.md R280 (derived by the spec), log entries 13 and 24: what a step adds around exec is the host's
action and the tick boundary before the fetch (`State.fetches`) and the end of the cycle after it (`endOfCycle`). -/
def Obligations.StepRunsTheDecodedInstruction : Prop :=
  (∀ (s u : State) (i : Instr), s.run = .running → s.cfg.refusal = none → s.fetches u i →
    step s = match exec i u with
      | .next t => .next (endOfCycle u.mode i t)
      | .fault r => .fault r
      | .refused r => .refused r) ∧
  (∀ (s : State) (w : Word), s.run = .running → s.cfg.refusal = none → s.mode = .reflex →
    s.cfg.program[s.pc]? = some w →
    (∀ i, decode w = .ok i → s.fetches s i) ∧ (∀ e, decode w = .error e → step s = .refused (.illegalWord e)))

/-- 70_reset_and_hazards.md R271. -/
def Obligations.StoppedMachineNeverSteps : Prop :=
  (∀ s t : State, s.run ≠ .running → step s ≠ .next t) ∧
  ∀ cfg : Params, (State.resetWith cfg).run = .running ∧ (State.resetWith cfg).cfg = cfg

/-- 60_exceptions.md R224, 70_reset_and_hazards.md R272 (D29, log entry 14). -/
def Obligations.IllFormedParametersRefused : Prop :=
  ∀ s : State, s.run = .running →
    ((s.cfg.program = [] ∨ 4096 < s.cfg.program.length) → step s = .refused .badProgram) ∧
    (s.cfg.program ≠ [] → s.cfg.program.length ≤ 4096 →
      (16 < s.cfg.handlers.length ∨
        ∃ e ∈ s.cfg.handlers, e.code = 0 ∨ 6 < e.code ∨ s.cfg.program.length ≤ e.address) →
      step s = .refused .badHandlerTable) ∧
    (s.cfg.program ≠ [] → s.cfg.program.length ≤ 4096 → s.cfg.handlers.length ≤ 16 →
      (∀ e ∈ s.cfg.handlers, 1 ≤ e.code ∧ e.code ≤ 6 ∧ e.address < s.cfg.program.length) → s.cfg.refusal = none)

/-- 70_reset_and_hazards.md R283, 42_temporal_tier.md R157 (D20, D21): the fault at the end of the program, or the tick
boundary, after which the same cycle goes on at index 0. -/
def Obligations.EndOfProgramFaultsOrWraps : Prop :=
  ∀ s : State, s.run = .running → s.cfg.refusal = none → s.mode = .reflex → s.cfg.program.length ≤ s.pc →
    (s.cfg.endOfProgram = .fault → step s = .fault .fetchOutOfProgram) ∧
    (s.cfg.endOfProgram = .wrap → step s = step { s with hist := s.regs :: s.hist, tick := s.tick + 1, pc := 0 })

/-- 60_exceptions.md R252 (D26, log entry 7): in reflex mode there is no host action; in host mode one changes registers,
guard units, exc and pc at most. -/
def Obligations.HostActsOnlyInHostMode : Prop :=
  ∀ s : State, (s.mode = .reflex → s.hostPhase = s) ∧
    ∃ (regs : RegFile) (guards : GuardFile) (exc : Option ExcCode) (pc : Nat),
      s.hostPhase = { s with regs := regs, guards := guards, exc := exc, pc := pc }

/-- 10_state.md R35, 70_reset_and_hazards.md R270 (D8): the reset values; the payload and width of a register
(log entry 3) and cond and n of an Unconfigured unit (log entry 30) are the model's and not mentioned. -/
def Obligations.ResetLeavesTheStateOfTheResetTable : Prop :=
  Params.default.initialMode = .reflex ∧ ∀ cfg : Params,
    (State.resetWith cfg).pc = 0 ∧ (State.resetWith cfg).mode = cfg.initialMode ∧ (State.resetWith cfg).depth = 0 ∧
    (State.resetWith cfg).exc = none ∧ (State.resetWith cfg).run = .running ∧ (State.resetWith cfg).cycle = 0 ∧
    (State.resetWith cfg).tick = 0 ∧ (State.resetWith cfg).hist = [] ∧ (State.resetWith cfg).outlog = [] ∧
    (∀ r, ((State.resetWith cfg).reg r).tag = .uninitialized ∧ ((State.resetWith cfg).reg r).prov = .unset) ∧
    (∀ g : GuardId, g.toNat ≤ 63 →
      ∃ u, (State.resetWith cfg).unit? g = some u ∧ u.kind = .unconfigured ∧ u.deadline = none) ∧
    (∀ p, (State.resetWith cfg).port p = none)

/-! ## What every step keeps -/

/-- The invariant (Sys2Proof/Safety.lean) holds after reset, for every legal IN_PORT_TYPE (log entry 27). -/
def Obligations.ResetSatisfiesTheInvariant : Prop :=
  State.reset.Inv ∧ ∀ cfg : Params, (∀ e ∈ cfg.inPortTypes, e.2.legal = true) → (State.resetWith cfg).Inv

/-- The invariant is kept by every step from every state that has it, reachable or not. Its clauses: 10_state.md R12, R23,
R27, R33, R34; 20_memory.md R45; 60_exceptions.md R228, R230, R237, R239; 92_eei_decisions.md D38. -/
def Obligations.StepKeepsTheInvariant : Prop :=
  ∀ s t : State, s.Inv → step s = .next t → t.Inv

/-- 10_state.md R29, R31, 20_memory.md R41, R53 (D1, D26, log entry 2): program, handler table and the other parameters are
never written, and each step counts one cycle, in either mode (log entry 19). -/
def Obligations.StepKeepsTheProgramAndCountsOneCycle : Prop :=
  ∀ s t : State, step s = .next t → t.cfg = s.cfg ∧ t.cycle = s.cycle + 1

/-- 10_state.md R27, 60_exceptions.md R233, R240 (D29, log entry 21): a cycle takes at most two exceptions, the instruction's
and the deadline step's. -/
def Obligations.DepthNeverFallsAndStaysBounded : Prop :=
  ∀ s t : State, step s = .next t →
    s.depth ≤ t.depth ∧ t.depth ≤ s.depth + 2 ∧ (s.depth ≤ 8 → t.depth ≤ 8)

/-- 10_state.md R34, 20_memory.md R45 (D11): nothing but STORE_OUTPUT drives a port; each one is logged once, in its cycle. -/
def Obligations.PortEventsComeOnlyFromStoreOutput : Prop :=
  ∀ s t : State, step s = .next t →
    (t.outlog = s.outlog ∧ t.outport = s.outport) ∨
    ∃ (u : State) (src : RegId) (p : PortId), s.fetches u (.storeOutput src p) ∧
      t.outlog = s.outlog ++ [{ cycle := s.cycle, port := p, word := u.reg src }] ∧
      t.port p = some (u.reg src) ∧ ∀ q, q ≠ p → t.port q = s.port q

/-- 10_state.md R33, 42_temporal_tier.md R157 (D20, D21, log entries 16 and 17): history and tick move only at a wrap. -/
def Obligations.HistoryGrowsOnlyAtATickBoundary : Prop :=
  ∀ s t : State, step s = .next t →
    (t.hist = s.hist ∧ t.tick = s.tick) ∨
    (s.cfg.endOfProgram = .wrap ∧ s.cfg.program.length ≤ s.hostPhase.pc ∧
      t.hist = s.hostPhase.regs :: s.hist ∧ t.tick = s.tick + 1)

/-- 10_state.md R26, 60_exceptions.md R251 with R237 (D37) and R253 (D26, log entry 6): the mode changes only when MODE_SWITCH
executes, to reflex mode only with quiescence, or when an exception traps to the host. -/
def Obligations.ModeChangesOnlyByModeSwitchOrTrapToHost : Prop :=
  ∀ s t : State, step s = .next t → t.mode ≠ s.mode →
    (∃ c, t.run = .trappedToHost c ∧ t.mode = .host) ∨
    (∃ (u : State) (target : BitVec 26), s.fetches u (.modeSwitch target) ∧
      (t.mode = .reflex → Config.quiescent s.cycle = true))

/-- 10_state.md R15, R24 (derived by the spec) and R34 (D11): which instructions can write registers, guard units and ports,
by opcode. -/
def Obligations.OnlyTheListedInstructionsWrite : Prop :=
  ∀ (i : Instr) (s t : State), exec i s = .next t →
    (t.regs ≠ s.regs → i.opcode ∈ [0, 2, 3, 4, 5, 6, 9, 12, 13, 14, 15, 16, 24, 26]) ∧
    (t.guards ≠ s.guards → i.opcode ∈ [7, 8, 10, 11, 29]) ∧
    (t.outport ≠ s.outport ∨ t.outlog ≠ s.outlog → i.opcode = 1)

/-- 10_state.md R20, 70_reset_and_hazards.md R281, with R233 and R236 (D29): where the pc can go. -/
def Obligations.PcAdvancesUnlessStoppedOrTransferred : Prop :=
  ∀ (i : Instr) (s t : State), s.run = .running → exec i s = .next t →
    (t.run = .running ∧ t.pc = s.pc + 1) ∨ (t.run ≠ .running ∧ t.pc = s.pc) ∨
    (t.run = .running ∧ t.depth = s.depth + 1 ∧ ∃ e ∈ s.cfg.handlers, e.action = none ∧ t.pc = e.address)

/-- 70_reset_and_hazards.md R284, 10_state.md R30 (D24, D36, D37): a machine stops by HALT, by EMERGENCY_STOP, or by an
exception whose code it keeps. -/
def Obligations.MachineStopsOnlyInTheListedWays : Prop :=
  ∀ s t : State, step s = .next t → t.run ≠ .running →
    (∃ (u : State) (n : BitVec 26), s.fetches u (.halt n) ∧ t.run = .halted n ∧ t.pc = u.pc) ∨
    (∃ u : State, s.fetches u .emergencyStop ∧ t.run = .emergencyStopped .instruction ∧ t.pc = u.pc) ∨
    (∃ c, t.run.cause = some c ∧ t.exc = some c)

/-! ## Taking an exception (60_exceptions.md) -/

/-- 60_exceptions.md R228. The table, the mode and the resume point do not matter. -/
def Obligations.ExceptionAtMaximumDepthStops : Prop :=
  Config.maxExceptionDepth = 8 ∧ ∀ (s : State) (c : ExcCode) (resume : Nat), s.depth = 8 →
    s.raise c resume = { s with exc := some c, run := .emergencyStopped (.depthOverflow c) }

/-- 60_exceptions.md R225: the first matching entry alone counts; with no action control goes to its address; with no match
the mode decides. -/
def Obligations.FirstMatchingEntryDecides : Prop :=
  ∀ (s : State) (c : ExcCode) (resume : Nat), s.depth ≠ 8 →
    (∀ (before after : List HandlerEntry) (e : HandlerEntry),
      s.cfg.handlers = before ++ e :: after → (∀ b ∈ before, b.code ≠ c.number) → e.code = c.number →
      s.raise c resume = { State.raise { s with cfg := { s.cfg with handlers := [e] } } c resume with cfg := s.cfg } ∧
      (e.action = none → (s.raise c resume).pc = e.address ∧ (s.raise c resume).run = s.run)) ∧
    ((∀ b ∈ s.cfg.handlers, b.code ≠ c.number) →
      (s.mode = .reflex → (s.raise c resume).run = .emergencyStopped (.unhandled c)) ∧
      (s.mode = .host → (s.raise c resume).run = .trappedToHost c))

/-- 60_exceptions.md R235: nothing but exc and run changes. -/
def Obligations.UnhandledInReflexModeStops : Prop :=
  ∀ (s : State) (c : ExcCode) (resume : Nat), s.depth ≠ 8 → s.mode = .reflex →
    (∀ e ∈ s.cfg.handlers, e.code ≠ c.number) →
    s.raise c resume = { s with exc := some c, run := .emergencyStopped (.unhandled c) }

/-- 60_exceptions.md R233, R234, R236 to R239 (D29, D32, D36, D37): what a handled exception leaves, by the entry's action,
and what an unhandled one leaves in host mode. -/
def Obligations.ExceptionEntryByAction : Prop :=
  ∀ (s : State) (c : ExcCode) (resume : Nat), s.depth ≠ 8 →
    (∀ e, s.cfg.handlerFor c = some e →
      s.raise c resume = match e.action with
        | none => { s with exc := some c, depth := s.depth + 1, pc := e.address }
        | some .emergencyStop => { s with exc := some c, run := .emergencyStopped (.action c) }
        | some .ignoreAndContinue => { s with exc := none, pc := resume }
        | some .trapToHost => { s with exc := some c, mode := .host, run := .trappedToHost c }
        | some .halt => { s with exc := some c, run := .haltedByException c }) ∧
    (s.cfg.handlerFor c = none → s.mode = .host →
      s.raise c resume = { s with exc := some c, run := .trappedToHost c })

/-- 60_exceptions.md R231 (derived by the spec; D31): an instruction either completes, with no exception recorded, or raises
one and changes nothing but control state. -/
def Obligations.ExceptionsArePrecise : Prop :=
  ∀ (i : Instr) (s t : State), exec i s = .next t →
    (t.exc = s.exc ∧ t.depth = s.depth) ∨
    (∃ c, t = s.raise c (s.pc + 1) ∧ OnlyControl s t ∧ (t.mode = s.mode ∨ t.run = .trappedToHost c))

/-- 10_state.md R16, 60_exceptions.md R221, R242 (D19, D22, D30, D31): `checkedReads` (Sys2Proof/Safety.lean) lists the
registers that each form reads. RegisterUninitialized comes before the condition the instruction tests. -/
def Obligations.UninitializedReadRaises : Prop :=
  ∀ (i : Instr) (s : State), (∃ r ∈ checkedReads i s, (s.reg r).tag = .uninitialized) →
    exec i s = .next (s.raise .registerUninitialized (s.pc + 1))

/-! ## Words (10_state.md R17, R18) and the ALU (41_alu_tier.md) -/

/-- 10_state.md R17, R18 (D12): how a word in range is read, in terms of bit vectors, and that a built word reads back. -/
def Obligations.WordsReadAsTheirTagsSay : Prop :=
  (∀ v : TaggedWord, v.legal = true →
    (v.tag = .bool → v.int = (v.value.setWidth 1).toNat) ∧
    (v.tag = .unsigned → v.int = (v.value.setWidth v.w).toNat) ∧
    (v.tag = .signed → v.int = (v.value.setWidth v.w).toInt) ∧
    (v.truth = true ↔ v.raw ≠ 0) ∧ v.raw < 2 ^ v.wd) ∧
  ∀ (w : Nat) (n : Int) (p : Prov), 1 ≤ w → w ≤ 64 →
    (TaggedWord.build .unsigned w n p).int = n % 2 ^ w ∧ (TaggedWord.build .signed w n p).int = n.bmod (2 ^ w) ∧
    (TaggedWord.build .bool 1 n p).int = n % 2

/-- 41_alu_tier.md R113 to R126 (D13, log entry 10): with ALU_FN at its default, the formulas on every pair of words. -/
def Obligations.AluFunctionFollowsTheLaws : Prop :=
  Params.default.aluModel = .laws ∧ ∀ (cfg : Params) (va vb : TaggedWord), cfg.aluModel = .laws →
    let W := va.wd
    let cb := vb.int % 2 ^ W
    let result := fun r : Int => TaggedWord.build va.tag W r .computed
    let truthWord := fun c : Bool =>
      ({ value := if c then 1 else 0, tag := .bool, w := 1, prov := .computed } : TaggedWord)
    cfg.aluBinary .add va vb = result (va.raw + cb) ∧ cfg.aluBinary .sub va vb = result (va.raw - cb) ∧
    cfg.aluBinary .mul va vb = result (va.raw * cb) ∧ cfg.aluBinary .and va vb = result (va.raw &&& cb.toNat : Nat) ∧
    cfg.aluBinary .or va vb = result (va.raw ||| cb.toNat : Nat) ∧
    cfg.aluBinary .xor va vb = result (va.raw ^^^ cb.toNat : Nat) ∧
    cfg.aluBinary .shl va vb = result (va.raw * 2 ^ vb.raw : Nat) ∧
    cfg.aluBinary .shr va vb = result (va.raw / 2 ^ vb.raw : Nat) ∧
    cfg.aluBinary .eq va vb = truthWord (va.int = vb.int) ∧ cfg.aluBinary .ne va vb = truthWord (va.int ≠ vb.int) ∧
    cfg.aluBinary .lt va vb = truthWord (va.int < vb.int) ∧ cfg.aluBinary .le va vb = truthWord (va.int ≤ vb.int) ∧
    cfg.aluBinary .gt va vb = truthWord (va.int > vb.int) ∧ cfg.aluBinary .ge va vb = truthWord (va.int ≥ vb.int)

/-- 41_alu_tier.md R113 to R121, R127, R128 (D13, log entry 10): with ALU_FN at its default the operations
on W bits are those of two's complement bit vectors, and no bit above the width is left in the result. -/
def Obligations.AluAgreesWithBitVectors : Prop :=
  ∀ (cfg : Params) (va vb : TaggedWord), cfg.aluModel = .laws → va.legal = true →
    let W := va.wd
    let x : BitVec W := va.value.setWidth W
    let y : BitVec W := BitVec.ofInt W vb.int
    (cfg.aluBinary .add va vb).value = (x + y).setWidth 64 ∧ (cfg.aluBinary .sub va vb).value = (x - y).setWidth 64 ∧
    (cfg.aluBinary .mul va vb).value = (x * y).setWidth 64 ∧ (cfg.aluBinary .and va vb).value = (x &&& y).setWidth 64 ∧
    (cfg.aluBinary .or va vb).value = (x ||| y).setWidth 64 ∧ (cfg.aluBinary .xor va vb).value = (x ^^^ y).setWidth 64 ∧
    (cfg.aluBinary .shl va vb).value = (x <<< vb.raw).setWidth 64 ∧
    (cfg.aluBinary .shr va vb).value = (x >>> vb.raw).setWidth 64 ∧
    (cfg.aluUnary .not va).value = (~~~x).setWidth 64 ∧ (cfg.aluUnary .neg va).value = (-x).setWidth 64

/-- 41_alu_tier.md R110, 30_encoding.md R81 (D4, D13): dst may equal a or b. What the operation computes is ALU_FN (log entry
10); its default is AluFunctionFollowsTheLaws. -/
def Obligations.AluCompletes : Prop :=
  ∀ (s : State) (op : BitVec 4) (dst a b : RegId), op.toNat ≤ 13 →
    (s.reg a).tag ≠ .uninitialized → (s.reg b).tag ≠ .uninitialized →
    ∃ t o, exec (.alu op dst a b) s = .next t ∧
      [AluOp.add, .sub, .mul, .and, .or, .xor, .shl, .shr, .eq, .ne, .lt, .le, .gt, .ge][op.toNat]? = some o ∧
      t.reg dst = s.cfg.aluBinary o (s.reg a) (s.reg b) ∧ (t.reg dst).prov = .computed ∧
      OnlyReg dst s t ∧ t.pc = s.pc + 1

/-- 41_alu_tier.md R111, 30_encoding.md R68, R69 (D5, D13, log entry 10): the immediate is an unsigned second
operand. -/
def Obligations.AluImmCompletes : Prop :=
  ∀ (s : State) (op : BitVec 4) (dst a : RegId) (imm : BitVec 6), op.toNat ≤ 13 → (s.reg a).tag ≠ .uninitialized →
    ∃ t o, exec (.aluImm op dst a imm) s = .next t ∧
      [AluOp.add, .sub, .mul, .and, .or, .xor, .shl, .shr, .eq, .ne, .lt, .le, .gt, .ge][op.toNat]? = some o ∧
      t.reg dst = s.cfg.aluBinary o (s.reg a) { value := imm.setWidth 64, tag := .unsigned, w := 64, prov := .literal } ∧
      (t.reg dst).prov = .computed ∧ OnlyReg dst s t ∧ t.pc = s.pc + 1

/-- 41_alu_tier.md R112, R127, R128 (D13, log entry 10): operation 0 is NOT, 1 is NEG; with ALU_FN at its default, the
complement and the negation. -/
def Obligations.AluUnaryCompletes : Prop :=
  ∀ (s : State) (op : BitVec 2) (dst src : RegId), op.toNat ≤ 1 → (s.reg src).tag ≠ .uninitialized →
    ∃ t o, exec (.aluUnary op dst src) s = .next t ∧ [AluUnaryOp.not, .neg][op.toNat]? = some o ∧
      t.reg dst = s.cfg.aluUnary o (s.reg src) ∧ (t.reg dst).prov = .computed ∧
      (s.cfg.aluModel = .laws → t.reg dst = TaggedWord.build (s.reg src).tag (s.reg src).wd
        (if op = 0 then 2 ^ (s.reg src).wd - 1 - ((s.reg src).raw : Int) else 2 ^ (s.reg src).wd - ((s.reg src).raw : Int))
        .computed) ∧
      OnlyReg dst s t ∧ t.pc = s.pc + 1

/-! ## Register tier (40_register_tier.md) -/

/-- 40_register_tier.md R100 (D10, log entry 5): the payload is the draw of this cycle and port; dst is not read. -/
def Obligations.LoadInputCompletes : Prop :=
  ∀ (s : State) (dst : RegId) (port : PortId), port.toNat < s.cfg.nInPorts →
    ∃ t, exec (.loadInput dst port) s = .next t ∧
      t.reg dst = { value := Config.portRead s.cycle port, tag := (s.cfg.portType port).tag,
                    w := (s.cfg.portType port).w, prov := .input port } ∧
      (s.cfg.inPortTypes = [] → (t.reg dst).tag = .unsigned ∧ (t.reg dst).w = 64) ∧
      OnlyReg dst s t ∧ t.pc = s.pc + 1

/-- 40_register_tier.md R101 (D11): the whole word is driven and logged; src and every other port keep theirs. -/
def Obligations.StoreOutputCompletes : Prop :=
  ∀ (s : State) (src : RegId) (port : PortId), port.toNat < s.cfg.nOutPorts → (s.reg src).tag ≠ .uninitialized →
    ∃ t, exec (.storeOutput src port) s = .next t ∧ t.port port = some (s.reg src) ∧
      t.outlog = s.outlog ++ [{ cycle := s.cycle, port := port, word := s.reg src }] ∧
      OnlyPort port s t ∧ t.pc = s.pc + 1

/-- 40_register_tier.md R102 (D14): value, tag, width and provenance are copied. -/
def Obligations.MovCompletes : Prop :=
  ∀ (s : State) (dst src : RegId), (s.reg src).tag ≠ .uninitialized →
    ∃ t, exec (.mov dst src) s = .next t ∧ t.reg dst = s.reg src ∧ OnlyReg dst s t ∧ t.pc = s.pc + 1

/-- 40_register_tier.md R103 (D15): a value that does not fit is truncated. -/
def Obligations.LoadImmCompletes : Prop :=
  ∀ (s : State) (dst : RegId) (value : BitVec 10) (width : BitVec 8), 1 ≤ width.toNat → width.toNat ≤ 64 →
    ∃ t, exec (.loadImm dst value width) s = .next t ∧
      t.reg dst = { value := BitVec.ofNat 64 (value.toNat % 2 ^ width.toNat), tag := .unsigned, w := width.toNat,
                    prov := .literal } ∧
      OnlyReg dst s t ∧ t.pc = s.pc + 1

/-! ## Temporal tier (42_temporal_tier.md) -/

/-- 42_temporal_tier.md R141 to R143, R145, R146 (D16, log entry 11): GUARD_MODEL at its default. A shift register starts with n
false samples, takes the newest in at the front and drops the oldest, and is active when all are true; a counter starts at
its target, counts down to 0 on true samples, is reloaded on a false one, and is active at 0. That a shift register without
samples, which only the host can leave, stays without is log entry 32. -/
def Obligations.GuardModelFollowsTheLaws : Prop :=
  Params.default.guardModel = .laws ∧ ∀ cfg : Params, cfg.guardModel = .laws → ∀ (c : Bool) (n : Nat),
    cfg.guardFns.srInit n = List.replicate n false ∧
    (∀ bits, cfg.guardFns.srTick c n bits = if bits = [] then [] else c :: bits.dropLast) ∧
    (∀ bits, cfg.guardFns.srActive n bits = true ↔ ∀ b ∈ bits, b = true) ∧
    cfg.guardFns.ctrInit n = n ∧
    (∀ count, cfg.guardFns.ctrTick c n count = if c then count - 1 else n) ∧
    (∀ count, cfg.guardFns.ctrActive n count = true ↔ count = 0)

/-- 42_temporal_tier.md R142, R145 (D16, D17): SR_INIT and CTR_INIT set the unit up without reading cond, in either mode; an
armed deadline stays, also on a unit that was Unconfigured. What the unit starts with is GUARD_MODEL (log entry 11). -/
def Obligations.GuardInitsComplete : Prop :=
  ∀ (s : State) (g : GuardId) (n : BitVec 8) (cond : RegId) (u : GuardUnit), s.unit? g = some u → n ≠ 0 →
    (∃ t, exec (.srInit g n cond) s = .next t ∧
      t.unit? g = some (.sr cond n.toNat (s.cfg.guardFns.srInit n.toNat) u.deadline) ∧ OnlyUnit g s t ∧
      t.pc = s.pc + 1) ∧
    (∃ t, exec (.ctrInit g n cond) s = .next t ∧
      t.unit? g = some (.ctr cond n.toNat (s.cfg.guardFns.ctrInit n.toNat) u.deadline) ∧ OnlyUnit g s t ∧ t.pc = s.pc + 1)

/-- 42_temporal_tier.md R143, R146, R150 (D16, D18): SR_TICK and CTR_TICK sample the condition register in reflex mode; in
host mode they only advance the pc, whatever the condition register holds. What a sample makes of the unit is GUARD_MODEL
(log entry 11). -/
def Obligations.GuardTicksComplete : Prop :=
  ∀ (s : State) (g : GuardId) (cond : RegId) (n : Nat) (dl : Option Nat),
    (∀ bits, s.unit? g = some (.sr cond n bits dl) →
      (s.mode = .reflex → (s.reg cond).tag ≠ .uninitialized →
        ∃ t, exec (.srTick g) s = .next t ∧
          t.unit? g = some (.sr cond n (s.cfg.guardFns.srTick (s.reg cond).truth n bits) dl) ∧ OnlyUnit g s t ∧
          t.pc = s.pc + 1) ∧
      (s.mode = .host → exec (.srTick g) s = .next { s with pc := s.pc + 1 })) ∧
    (∀ count, s.unit? g = some (.ctr cond n count dl) →
      (s.mode = .reflex → (s.reg cond).tag ≠ .uninitialized →
        ∃ t, exec (.ctrTick g) s = .next t ∧
          t.unit? g = some (.ctr cond n (s.cfg.guardFns.ctrTick (s.reg cond).truth n count) dl) ∧ OnlyUnit g s t ∧
          t.pc = s.pc + 1) ∧
      (s.mode = .host → exec (.ctrTick g) s = .next { s with pc := s.pc + 1 }))

/-- 42_temporal_tier.md R141, R144, R147 (D14, D16, log entry 11): SR_QUERY and CTR_QUERY write the activation as a Bool
word. -/
def Obligations.GuardQueriesComplete : Prop :=
  ∀ (s : State) (dst : RegId) (g : GuardId) (cond : RegId) (n : Nat) (dl : Option Nat),
    (∀ bits, s.unit? g = some (.sr cond n bits dl) →
      ∃ t, exec (.srQuery dst g) s = .next t ∧
        t.reg dst = { value := if s.cfg.guardFns.srActive n bits then 1 else 0, tag := .bool, w := 1, prov := .computed } ∧
        OnlyReg dst s t ∧ t.pc = s.pc + 1) ∧
    (∀ count, s.unit? g = some (.ctr cond n count dl) →
      ∃ t, exec (.ctrQuery dst g) s = .next t ∧
        t.reg dst = { value := if s.cfg.guardFns.ctrActive n count then 1 else 0, tag := .bool, w := 1, prov := .computed } ∧
        OnlyReg dst s t ∧ t.pc = s.pc + 1)

/-- 42_temporal_tier.md R148, R149 (D3, D14): GUARD_AND and GUARD_OR combine the activations of two configured units. -/
def Obligations.GuardCombinationsComplete : Prop :=
  ∀ (s : State) (dst : RegId) (a b : GuardId) (ua ub : GuardUnit), s.unit? a = some ua → ua.kind ≠ .unconfigured →
    s.unit? b = some ub → ub.kind ≠ .unconfigured →
    (∃ t, exec (.guardAnd dst a b) s = .next t ∧
      t.reg dst = { value := if ua.active s.cfg.guardFns = true ∧ ub.active s.cfg.guardFns = true then 1 else 0,
                    tag := .bool, w := 1, prov := .computed } ∧
      OnlyReg dst s t ∧ t.pc = s.pc + 1) ∧
    (∃ t, exec (.guardOr dst a b) s = .next t ∧
      t.reg dst = { value := if ua.active s.cfg.guardFns = true ∨ ub.active s.cfg.guardFns = true then 1 else 0,
                    tag := .bool, w := 1, prov := .computed } ∧
      OnlyReg dst s t ∧ t.pc = s.pc + 1)

/-- 42_temporal_tier.md R151 (derived by the spec from R141, R143, R146, so with GUARD_MODEL at its default, log entry 11): a
shift-register unit and a counter unit set up alike and ticked at the same points are active together, exactly when the
last n samples were all true. -/
def Obligations.ShiftRegisterAndCounterGuardsAgree : Prop :=
  ∀ (s : State) (g h : GuardId) (n : BitVec 8) (cond : RegId) (samples : List TaggedWord),
    s.cfg.guardModel = .laws → s.mode = .reflex → g.toNat ≤ 63 → h.toNat ≤ 63 → g ≠ h → n ≠ 0 →
    (∀ v ∈ samples, v.tag ≠ .uninitialized) →
    ∃ (t : State) (ug uh : GuardUnit),
      samples.foldl (sampleBoth g h cond) (andThen (exec (.srInit g n cond) s) (exec (.ctrInit h n cond))) = .next t ∧
      t.unit? g = some ug ∧ t.unit? h = some uh ∧ ug.active s.cfg.guardFns = uh.active s.cfg.guardFns ∧
      (ug.active s.cfg.guardFns = true ↔
        n.toNat ≤ samples.length ∧ ∀ v ∈ samples.drop (samples.length - n.toNat), v.truth = true)

/-- 42_temporal_tier.md R155 (D14, D19): the R-SPU's one conditional operation; with the guard inactive src is not read. -/
def Obligations.ReflexIfCompletes : Prop :=
  ∀ (s : State) (g : GuardId) (dst src : RegId) (u : GuardUnit), s.unit? g = some u → u.kind ≠ .unconfigured →
    (u.active s.cfg.guardFns = true → (s.reg src).tag ≠ .uninitialized →
      ∃ t, exec (.reflexIf g dst src) s = .next t ∧ t.reg dst = s.reg src ∧ OnlyReg dst s t ∧ t.pc = s.pc + 1) ∧
    (u.active s.cfg.guardFns = false → exec (.reflexIf g dst src) s = .next { s with pc := s.pc + 1 })

/-- 42_temporal_tier.md R156 (D20, log entry 16): delay 0 reads the register, a delay of d the d-th most recent snapshot. -/
def Obligations.PrevCompletes : Prop :=
  ∀ (s : State) (dst signal : RegId) (delay : BitVec 8) (v : TaggedWord),
    (delay = 0 ∧ v = s.reg signal ∨
      delay ≠ 0 ∧ delay.toNat ≤ s.tick ∧ ∃ f, s.hist[delay.toNat - 1]? = some f ∧ f[signal.toNat]? = some v) →
    (v.tag ≠ .uninitialized →
      ∃ t, exec (.prev dst signal delay) s = .next t ∧ t.reg dst = v ∧ OnlyReg dst s t ∧ t.pc = s.pc + 1) ∧
    (v.tag = .uninitialized → exec (.prev dst signal delay) s = .next (s.raise .registerUninitialized (s.pc + 1)))

/-! ## Safety, Exception, Control and Tagged tiers -/

/-- 43_safety_tier.md R170, 44_exception_tier.md R182 (D24): EMERGENCY_STOP and HALT change the run state alone. -/
def Obligations.EmergencyStopAndHaltComplete : Prop :=
  ∀ (s : State) (exitCode : BitVec 26),
    exec .emergencyStop s = .next { s with run := .emergencyStopped .instruction } ∧
    exec (.halt exitCode) s = .next { s with run := .halted exitCode }

/-- 43_safety_tier.md R171, R172 (D22): an assertion that holds, or is not checked, only advances the pc; one that fails
raises AssertionViolation. -/
def Obligations.AssertionsComplete : Prop :=
  ∀ (s : State) (cond : RegId) (propertyId : BitVec 18),
    (s.cfg.assertChecked = false →
      exec (.assertAlways cond propertyId) s = .next { s with pc := s.pc + 1 } ∧
      exec (.assertNever cond propertyId) s = .next { s with pc := s.pc + 1 }) ∧
    (s.cfg.assertChecked = true → (s.reg cond).tag ≠ .uninitialized → (s.reg cond).truth = true →
      exec (.assertAlways cond propertyId) s = .next { s with pc := s.pc + 1 } ∧
      exec (.assertNever cond propertyId) s = .next (s.raise .assertionViolation (s.pc + 1))) ∧
    (s.cfg.assertChecked = true → (s.reg cond).tag ≠ .uninitialized → (s.reg cond).truth = false →
      exec (.assertAlways cond propertyId) s = .next (s.raise .assertionViolation (s.pc + 1)) ∧
      exec (.assertNever cond propertyId) s = .next { s with pc := s.pc + 1 })

/-- 44_exception_tier.md R180, R181 (D12, D23): TRAP takes the exception its operand names; TRAP_IF takes it when the
condition register is true, and otherwise only advances the pc. -/
def Obligations.TrapsTakeTheNamedException : Prop :=
  ∀ (s : State) (c : ExcCode),
    (∀ code : BitVec 26, code.toNat = c.number → exec (.trap code) s = .next (s.raise c (s.pc + 1))) ∧
    (∀ (cond : RegId) (code : BitVec 18), code.toNat = c.number → (s.reg cond).tag ≠ .uninitialized →
      ((s.reg cond).truth = true → exec (.trapIf cond code) s = .next (s.raise c (s.pc + 1))) ∧
      ((s.reg cond).truth = false → exec (.trapIf cond code) s = .next { s with pc := s.pc + 1 }))

/-- 45_control_tier.md R190 (D25, D26, log entry 6): to host mode at any point; to reflex mode the quiescence draw of this
cycle decides. -/
def Obligations.ModeSwitchCompletes : Prop :=
  ∀ s : State,
    (s.mode = .reflex → exec (.modeSwitch 1) s = .next { s with mode := .host, pc := s.pc + 1 }) ∧
    (s.mode = .host → exec (.modeSwitch 0) s =
      if Config.quiescent s.cycle then .next { s with mode := .reflex, pc := s.pc + 1 }
      else .next (s.raise .userTrap (s.pc + 1)))

/-- 45_control_tier.md R191: NOP, its word, the one cycle it consumes, which counts for every armed deadline, and the all-zero
word. -/
def Obligations.NopOnlyAdvances : Prop :=
  decode 0x6C000000 = .ok .nop ∧ decode 0 = .ok (.loadInput 0 0) ∧ armedUnit .nop = none ∧
  (∀ s : State, exec .nop s = .next { s with pc := s.pc + 1 }) ∧
  ∀ s u : State, s.run = .running → s.cfg.refusal = none → s.fetches u .nop →
    ∃ t, step s = .next t ∧ t.cycle = s.cycle + 1

/-- 45_control_tier.md R192, 20_memory.md R52 (D34): FENCE has no effect but its cycle. -/
def Obligations.FenceOnlyAdvances : Prop :=
  decode 0x70000000 = .ok .fence ∧ ∀ s : State, exec .fence s = .next { s with pc := s.pc + 1 }

/-- 46_tagged_tier.md R200 to R202, 10_state.md R13 (D14, D27): TAG_LOAD changes the tag field alone, TAG_CHECK compares it
and TAG_READ copies it into a value, none of them reading the payload. -/
def Obligations.TagInstructionsComplete : Prop :=
  ∀ (s : State) (r : RegId) (tag : Tag) (code : BitVec 4),
    (tag, code) ∈ [(Tag.bool, 0x0), (.unsigned, 0x1), (.signed, 0x2), (.uninitialized, (0xF : BitVec 4))] →
    (∃ t, exec (.tagLoad r code) s = .next t ∧ t.reg r = { s.reg r with tag := tag } ∧ OnlyReg r s t ∧
      t.pc = s.pc + 1) ∧
    ((s.reg r).tag = tag → exec (.tagCheck r code) s = .next { s with pc := s.pc + 1 }) ∧
    ((s.reg r).tag ≠ tag → exec (.tagCheck r code) s = .next (s.raise .tagMismatch (s.pc + 1))) ∧
    (∀ dst, (s.reg r).tag = tag → ∃ t, exec (.tagRead dst r) s = .next t ∧
      t.reg dst = { value := code.setWidth 64, tag := .unsigned, w := 4, prov := .computed } ∧ OnlyReg dst s t ∧
      t.pc = s.pc + 1)

/-! ## Deadlines (47_temporal_extension.md) -/

/-- 47_temporal_extension.md R210 (D28): the deadline replaces any that was armed; nothing else of the unit changes. -/
def Obligations.DeadlineSetCompletes : Prop :=
  ∀ (s : State) (g : GuardId) (maxCycles : BitVec 18) (u : GuardUnit), s.unit? g = some u → u.kind ≠ .unconfigured →
    maxCycles ≠ 0 →
    ∃ t v, exec (.deadlineSet g maxCycles) s = .next t ∧ t.unit? g = some v ∧ v.deadline = some maxCycles.toNat ∧
      v.withDeadline u.deadline = u ∧ OnlyUnit g s t ∧ t.pc = s.pc + 1

/-- 47_temporal_extension.md R211 (D18, D28, D30, log entry 24): at the end of a reflex-mode cycle each armed deadline is met,
missed or counted down, except the one armed in this cycle; otherwise nothing but the cycle count moves. The
activation of an Unconfigured unit, on which only the host can arm a deadline, is free (log entry 31). -/
def Obligations.DeadlinesCountAtTheEndOfACycle : Prop :=
  ∀ (i : Instr) (s : State),
    (s.run = .running → ∀ k : Fin 64,
      (armedUnit i = some k.val ∨ s.guards[k].deadline = none → (endOfCycle .reflex i s).guards[k] = s.guards[k]) ∧
      (∀ r, armedUnit i ≠ some k.val → s.guards[k].deadline = some r →
        (endOfCycle .reflex i s).guards[k] = s.guards[k].withDeadline
          (if s.guards[k].active s.cfg.guardFns = true ∨ r ≤ 1 then none else some (r - 1)))) ∧
    (s.run ≠ .running → endOfCycle .reflex i s = { s with cycle := s.cycle + 1 }) ∧
    endOfCycle .host i s = { s with cycle := s.cycle + 1 }

/-- 47_temporal_extension.md R211, R212 (D28, D30, log entry 24): one DeadlineMiss, however many deadlines expire, with the pc
already in place; none when no deadline expires. -/
def Obligations.DeadlineMissIsRaisedOnce : Prop :=
  ∀ (i : Instr) (s : State), s.run = .running →
    ((∃ (k : Fin 64) (r : Nat), armedUnit i ≠ some k.val ∧ s.guards[k].deadline = some r ∧ r ≤ 1 ∧
        s.guards[k].active s.cfg.guardFns = false) →
      endOfCycle .reflex i s =
        { State.raise { s with guards := (endOfCycle .reflex i s).guards } .deadlineMiss s.pc with
          cycle := s.cycle + 1 }) ∧
    ((∀ (k : Fin 64) (r : Nat), armedUnit i ≠ some k.val → s.guards[k].deadline = some r →
        1 < r ∨ s.guards[k].active s.cfg.guardFns = true) →
      endOfCycle .reflex i s = { s with guards := (endOfCycle .reflex i s).guards, cycle := s.cycle + 1 })

/-! ## Refusals (93_implementation_defined.md, section 1) -/

/-- 93_implementation_defined.md U2, U3, U5, U9, U10 (D6, D23, log entry 15): an instruction whose operand is a reserved
encoding is refused in every state; no exception is taken. -/
def Obligations.ReservedOperandsAreRefused : Prop :=
  ∀ (i : Instr) (s : State), i.wellFormed = false → ∃ r, exec i s = .refused r

/-- 93_implementation_defined.md U7, U8, U11, U12, U14, U15 (D10, D15, D17, D20, D25, D28, log entry 15): operand values and
states that the spec gives no meaning. -/
def Obligations.OperandsOutOfRangeAreRefused : Prop :=
  ∀ s : State,
    (∀ dst port, s.cfg.nInPorts ≤ port.toNat → exec (.loadInput dst port) s = .refused .portOutOfRange) ∧
    (∀ src port, s.cfg.nOutPorts ≤ port.toNat → exec (.storeOutput src port) s = .refused .portOutOfRange) ∧
    (∀ dst value width, width = 0 ∨ 64 < width.toNat → exec (.loadImm dst value width) s = .refused .badWidth) ∧
    (∀ g cond, g.toNat ≤ 63 → exec (.srInit g 0 cond) s = .refused .zeroLengthGuard ∧
      exec (.ctrInit g 0 cond) s = .refused .zeroLengthGuard) ∧
    (∀ g u, s.unit? g = some u → u.kind ≠ .unconfigured → exec (.deadlineSet g 0) s = .refused .zeroDeadline) ∧
    (s.mode = .reflex → exec (.modeSwitch 0) s = .refused .modeSwitchToCurrentMode) ∧
    (s.mode = .host → exec (.modeSwitch 1) s = .refused .modeSwitchToCurrentMode) ∧
    (∀ dst signal delay, s.tick < delay.toNat → exec (.prev dst signal delay) s = .refused .prevBeforeStart)

/-- 93_implementation_defined.md U6, 42_temporal_tier.md R140 (D17): a unit that is not configured, or for ticks and queries
a unit of the other kind. GUARD_AND and GUARD_OR check a before b ("check a and b"), so with a not configured the name is
guardNotConfigured whatever b is, also for a b of 64 to 255, which names no unit (log entry 15). -/
def Obligations.GuardsNotConfiguredAreRefused : Prop :=
  ∀ (s : State) (g : GuardId) (u : GuardUnit), s.unit? g = some u →
    (u.kind ≠ .sr → exec (.srTick g) s = .refused .guardNotConfigured ∧
      ∀ dst, exec (.srQuery dst g) s = .refused .guardNotConfigured) ∧
    (u.kind ≠ .ctr → exec (.ctrTick g) s = .refused .guardNotConfigured ∧
      ∀ dst, exec (.ctrQuery dst g) s = .refused .guardNotConfigured) ∧
    (u.kind = .unconfigured → ∀ dst src,
      (∀ b, exec (.guardAnd dst g b) s = .refused .guardNotConfigured ∧
        exec (.guardOr dst g b) s = .refused .guardNotConfigured) ∧
      (∀ a ua, s.unit? a = some ua → exec (.guardAnd dst a g) s = .refused .guardNotConfigured ∧
        exec (.guardOr dst a g) s = .refused .guardNotConfigured) ∧
      exec (.reflexIf g dst src) s = .refused .guardNotConfigured ∧
      ∀ maxCycles, exec (.deadlineSet g maxCycles) s = .refused .guardNotConfigured)

/-! ## Provenance -/

/-- 10_state.md R12, R14 (D7): "No instruction reads the provenance field". Two states that differ only in provenance take
the same instruction, and in reflex mode the same step, to the same outcome up to provenance. In host mode the host may
look at it (log entry 7), so a whole step is compared in reflex mode only. -/
def Obligations.ProvenanceIsNeverRead : Prop :=
  ∀ s t : State, s.eraseProv = t.eraseProv →
    (∀ i : Instr, eraseProvResult (exec i s) = eraseProvResult (exec i t)) ∧
    (s.mode = .reflex → eraseProvResult (step s) = eraseProvResult (step t))

end
end

