-- ==== Sys2Proof/Laws/State.lean ====
section
/-!
SUPPORT. One lemma per field per update, true by rfl, so that no proof unfolds a record update; and the reading laws of the
register file, the guard units and the ports.
-/

namespace Sys2Proof.Machine

/-! ## advance -/

@[simp] theorem advance_cfg (s : State) : s.advance.cfg = s.cfg := rfl
@[simp] theorem advance_regs (s : State) : s.advance.regs = s.regs := rfl
@[simp] theorem advance_pc (s : State) : s.advance.pc = s.pc + 1 := rfl
@[simp] theorem advance_guards (s : State) : s.advance.guards = s.guards := rfl
@[simp] theorem advance_mode (s : State) : s.advance.mode = s.mode := rfl
@[simp] theorem advance_depth (s : State) : s.advance.depth = s.depth := rfl
@[simp] theorem advance_exc (s : State) : s.advance.exc = s.exc := rfl
@[simp] theorem advance_run (s : State) : s.advance.run = s.run := rfl
@[simp] theorem advance_cycle (s : State) : s.advance.cycle = s.cycle := rfl
@[simp] theorem advance_tick (s : State) : s.advance.tick = s.tick := rfl
@[simp] theorem advance_hist (s : State) : s.advance.hist = s.hist := rfl
@[simp] theorem advance_outport (s : State) : s.advance.outport = s.outport := rfl
@[simp] theorem advance_outlog (s : State) : s.advance.outlog = s.outlog := rfl
@[simp] theorem advance_reg (s : State) (r : RegId) : s.advance.reg r = s.reg r := rfl
@[simp] theorem advance_unit (s : State) (g : GuardId) : s.advance.unit? g = s.unit? g := rfl
@[simp] theorem advance_port (s : State) (p : PortId) : s.advance.port p = s.port p := rfl

/-! ## setReg -/

section
variable (s : State) (i : RegId) (v : TaggedWord)
@[simp] theorem setReg_cfg : (s.setReg i v).cfg = s.cfg := rfl
@[simp] theorem setReg_pc : (s.setReg i v).pc = s.pc := rfl
@[simp] theorem setReg_guards : (s.setReg i v).guards = s.guards := rfl
@[simp] theorem setReg_mode : (s.setReg i v).mode = s.mode := rfl
@[simp] theorem setReg_depth : (s.setReg i v).depth = s.depth := rfl
@[simp] theorem setReg_exc : (s.setReg i v).exc = s.exc := rfl
@[simp] theorem setReg_run : (s.setReg i v).run = s.run := rfl
@[simp] theorem setReg_cycle : (s.setReg i v).cycle = s.cycle := rfl
@[simp] theorem setReg_tick : (s.setReg i v).tick = s.tick := rfl
@[simp] theorem setReg_hist : (s.setReg i v).hist = s.hist := rfl
@[simp] theorem setReg_outport : (s.setReg i v).outport = s.outport := rfl
@[simp] theorem setReg_outlog : (s.setReg i v).outlog = s.outlog := rfl
@[simp] theorem setReg_unit (g : GuardId) : (s.setReg i v).unit? g = s.unit? g := rfl
@[simp] theorem setReg_port (p : PortId) : (s.setReg i v).port p = s.port p := rfl
end

/-- Reading a register after a write: the written word, or what the register held. -/
theorem reg_setReg (s : State) (i r : RegId) (v : TaggedWord) :
    (s.setReg i v).reg r = if r = i then v else s.reg r := by
  unfold State.reg State.setReg
  by_cases h : r = i
  · subst h; simp
  · have : ¬ i.toNat = r.toNat := fun h' => h (BitVec.eq_of_toNat_eq h'.symm)
    simp [h, this]

@[simp] theorem reg_setReg_same (s : State) (i : RegId) (v : TaggedWord) : (s.setReg i v).reg i = v := by
  simp [reg_setReg]

theorem reg_setReg_other (s : State) {i r : RegId} (v : TaggedWord) (h : r ≠ i) : (s.setReg i v).reg r = s.reg r := by
  simp [reg_setReg, h]

/-! ## setUnit -/

section
variable (s : State) (g : GuardId) (u : GuardUnit)
@[simp] theorem setUnit_cfg : (s.setUnit g u).cfg = s.cfg := rfl
@[simp] theorem setUnit_regs : (s.setUnit g u).regs = s.regs := rfl
@[simp] theorem setUnit_pc : (s.setUnit g u).pc = s.pc := rfl
@[simp] theorem setUnit_mode : (s.setUnit g u).mode = s.mode := rfl
@[simp] theorem setUnit_depth : (s.setUnit g u).depth = s.depth := rfl
@[simp] theorem setUnit_exc : (s.setUnit g u).exc = s.exc := rfl
@[simp] theorem setUnit_run : (s.setUnit g u).run = s.run := rfl
@[simp] theorem setUnit_cycle : (s.setUnit g u).cycle = s.cycle := rfl
@[simp] theorem setUnit_tick : (s.setUnit g u).tick = s.tick := rfl
@[simp] theorem setUnit_hist : (s.setUnit g u).hist = s.hist := rfl
@[simp] theorem setUnit_outport : (s.setUnit g u).outport = s.outport := rfl
@[simp] theorem setUnit_outlog : (s.setUnit g u).outlog = s.outlog := rfl
@[simp] theorem setUnit_reg (r : RegId) : (s.setUnit g u).reg r = s.reg r := rfl
@[simp] theorem setUnit_port (p : PortId) : (s.setUnit g u).port p = s.port p := rfl
end

/-- Reading a unit after a write to a unit that exists. -/
theorem unit_setUnit (s : State) (g h : GuardId) (u : GuardUnit) (hg : g.toNat < 64) :
    (s.setUnit g u).unit? h = if h = g then some u else s.unit? h := by
  unfold State.unit? State.setUnit
  by_cases e : h = g
  · subst e; simp [hg]
  · have : ¬ g.toNat = h.toNat := fun h' => e (BitVec.eq_of_toNat_eq h'.symm)
    simp [e, this, Vector.getElem?_setIfInBounds_ne]

/-- A guard operand names a unit exactly when it is at most 63 (10_state.md R22). -/
theorem unit_isSome_iff (s : State) (g : GuardId) : (s.unit? g).isSome ↔ g.toNat < 64 := by
  simp [State.unit?]

theorem unit_lt {s : State} {g : GuardId} {u : GuardUnit} (h : s.unit? g = some u) : g.toNat < 64 :=
  (unit_isSome_iff s g).mp (by simp [h])

theorem unit_eq_none_iff (s : State) (g : GuardId) : s.unit? g = none ↔ 64 ≤ g.toNat := by
  simp [State.unit?]

/-! ## portWrite -/

section
variable (s : State) (p : PortId) (v : TaggedWord)
@[simp] theorem portWrite_cfg : (s.portWrite p v).cfg = s.cfg := rfl
@[simp] theorem portWrite_regs : (s.portWrite p v).regs = s.regs := rfl
@[simp] theorem portWrite_pc : (s.portWrite p v).pc = s.pc := rfl
@[simp] theorem portWrite_guards : (s.portWrite p v).guards = s.guards := rfl
@[simp] theorem portWrite_mode : (s.portWrite p v).mode = s.mode := rfl
@[simp] theorem portWrite_depth : (s.portWrite p v).depth = s.depth := rfl
@[simp] theorem portWrite_exc : (s.portWrite p v).exc = s.exc := rfl
@[simp] theorem portWrite_run : (s.portWrite p v).run = s.run := rfl
@[simp] theorem portWrite_cycle : (s.portWrite p v).cycle = s.cycle := rfl
@[simp] theorem portWrite_tick : (s.portWrite p v).tick = s.tick := rfl
@[simp] theorem portWrite_hist : (s.portWrite p v).hist = s.hist := rfl
@[simp] theorem portWrite_outlog :
    (s.portWrite p v).outlog = s.outlog ++ [{ cycle := s.cycle, port := p, word := v }] := rfl
@[simp] theorem portWrite_reg (r : RegId) : (s.portWrite p v).reg r = s.reg r := rfl
@[simp] theorem portWrite_unit (g : GuardId) : (s.portWrite p v).unit? g = s.unit? g := rfl
end

/-- The word a port shows after a port write. -/
theorem port_portWrite (s : State) (p q : PortId) (v : TaggedWord) :
    (s.portWrite p v).port q = if q = p then some v else s.port q := by
  unfold State.port State.portWrite
  by_cases h : q = p
  · subst h; simp
  · have : ¬ p.toNat = q.toNat := fun h' => h (BitVec.eq_of_toNat_eq h'.symm)
    simp [h, this]

/-! ## tickBoundary and host actions -/

@[simp] theorem tickBoundary_cfg (s : State) : s.tickBoundary.cfg = s.cfg := rfl
@[simp] theorem tickBoundary_regs (s : State) : s.tickBoundary.regs = s.regs := rfl
@[simp] theorem tickBoundary_pc (s : State) : s.tickBoundary.pc = 0 := rfl
@[simp] theorem tickBoundary_guards (s : State) : s.tickBoundary.guards = s.guards := rfl
@[simp] theorem tickBoundary_mode (s : State) : s.tickBoundary.mode = s.mode := rfl
@[simp] theorem tickBoundary_depth (s : State) : s.tickBoundary.depth = s.depth := rfl
@[simp] theorem tickBoundary_exc (s : State) : s.tickBoundary.exc = s.exc := rfl
@[simp] theorem tickBoundary_run (s : State) : s.tickBoundary.run = s.run := rfl
@[simp] theorem tickBoundary_cycle (s : State) : s.tickBoundary.cycle = s.cycle := rfl
@[simp] theorem tickBoundary_tick (s : State) : s.tickBoundary.tick = s.tick + 1 := rfl
@[simp] theorem tickBoundary_hist (s : State) : s.tickBoundary.hist = s.regs :: s.hist := rfl
@[simp] theorem tickBoundary_outport (s : State) : s.tickBoundary.outport = s.outport := rfl
@[simp] theorem tickBoundary_outlog (s : State) : s.tickBoundary.outlog = s.outlog := rfl

@[simp] theorem withHostView_cfg (s : State) (v : HostView) : (s.withHostView v).cfg = s.cfg := rfl
@[simp] theorem withHostView_regs (s : State) (v : HostView) : (s.withHostView v).regs = v.regs := rfl
@[simp] theorem withHostView_pc (s : State) (v : HostView) : (s.withHostView v).pc = v.pc := rfl
@[simp] theorem withHostView_guards (s : State) (v : HostView) : (s.withHostView v).guards = v.guards := rfl
@[simp] theorem withHostView_mode (s : State) (v : HostView) : (s.withHostView v).mode = s.mode := rfl
@[simp] theorem withHostView_depth (s : State) (v : HostView) : (s.withHostView v).depth = s.depth := rfl
@[simp] theorem withHostView_exc (s : State) (v : HostView) : (s.withHostView v).exc = v.exc := rfl
@[simp] theorem withHostView_run (s : State) (v : HostView) : (s.withHostView v).run = s.run := rfl
@[simp] theorem withHostView_cycle (s : State) (v : HostView) : (s.withHostView v).cycle = s.cycle := rfl
@[simp] theorem withHostView_tick (s : State) (v : HostView) : (s.withHostView v).tick = s.tick := rfl
@[simp] theorem withHostView_hist (s : State) (v : HostView) : (s.withHostView v).hist = s.hist := rfl
@[simp] theorem withHostView_outport (s : State) (v : HostView) : (s.withHostView v).outport = s.outport := rfl
@[simp] theorem withHostView_outlog (s : State) (v : HostView) : (s.withHostView v).outlog = s.outlog := rfl

/-! ## Reset -/

/-- Every register after reset (10_state.md R35). -/
@[simp] theorem resetWith_reg (cfg : Params) (r : RegId) : (State.resetWith cfg).reg r = resetWord r := by
  simp [State.reg, State.resetWith, resetRegs]

/-- Every guard unit after reset (10_state.md R35). -/
theorem resetWith_unit (cfg : Params) (g : GuardId) (h : g.toNat < 64) :
    (State.resetWith cfg).unit? g = some resetUnit := by
  simp [State.unit?, State.resetWith, h]

/-- Every output port after reset (10_state.md R35). -/
@[simp] theorem resetWith_port (cfg : Params) (p : PortId) : (State.resetWith cfg).port p = none := by
  simp [State.port, State.resetWith]

end Sys2Proof.Machine
end

