-- ==== Sys2Proof/Laws/Ops.lean ====
section
/-!
SUPPORT. What each shared operation can do, said once: completing, the checked read, the guard checks, and taking an
exception. Proofs cite these lemmas instead of unfolding the operations.
-/

namespace Sys2Proof.Machine

/-! ## Completing -/

@[simp] theorem complete_eq_next (s t : State) : complete s = .next t ↔ s.advance = t := by
  simp [complete]

@[simp] theorem writeReg_eq_next (dst : RegId) (v : TaggedWord) (s t : State) :
    writeReg dst v s = .next t ↔ (s.setReg dst v).advance = t := by
  simp [writeReg]

@[simp] theorem raiseExc_eq_next (c : ExcCode) (s t : State) : raiseExc c s = .next t ↔ s.raise c (s.pc + 1) = t := by
  simp [raiseExc]

/-- Completing by writing one register: what the next state holds, and the frame. -/
theorem writeReg_completes (dst : RegId) (v : TaggedWord) (s : State) :
    ∃ t, writeReg dst v s = .next t ∧ t.reg dst = v ∧ OnlyReg dst s t ∧ t.pc = s.pc + 1 :=
  ⟨_, rfl, by simp, ⟨rfl, fun _ h => reg_setReg_other s v h⟩, rfl⟩

/-- Completing by writing one guard unit: what the next state holds, and the frame. -/
theorem setUnit_completes {g : GuardId} {w : GuardUnit} {s : State} (u : GuardUnit) (h : s.unit? g = some w) :
    ∃ t, complete (s.setUnit g u) = .next t ∧ t.unit? g = some u ∧ OnlyUnit g s t ∧ t.pc = s.pc + 1 :=
  ⟨_, rfl, by simp [unit_setUnit _ _ _ _ (unit_lt h)],
    ⟨rfl, fun _ hn => by simp [unit_setUnit _ _ _ _ (unit_lt h), hn]⟩, rfl⟩

/-- Completing by writing one output port: what the next state holds, and the frame. -/
theorem portWrite_completes (p : PortId) (v : TaggedWord) (s : State) :
    ∃ t, complete (s.portWrite p v) = .next t ∧ t.port p = some v ∧
      t.outlog = s.outlog ++ [{ cycle := s.cycle, port := p, word := v }] ∧ OnlyPort p s t ∧ t.pc = s.pc + 1 :=
  ⟨_, rfl, by simp [port_portWrite], rfl, ⟨rfl, fun _ h => by simp [port_portWrite, h]⟩, rfl⟩

/-- The Bool word (10_state.md R18), written out. -/
theorem ofBool_eq (b : Bool) :
    TaggedWord.ofBool b = { value := if b then 1 else 0, tag := .bool, w := 1, prov := .computed } := by
  cases b <;> rfl

/-! ## Reading -/

/-- A checked read of an initialized register goes on with the word it holds. -/
theorem checkedRead_of_init {i : RegId} {s : State} (k : TaggedWord → Result) (h : (s.reg i).tag ≠ .uninitialized) :
    checkedRead i s k = k (s.reg i) := by
  simp [checkedRead, h]

/-- A checked read of an uninitialized register raises RegisterUninitialized (10_state.md R16). -/
theorem checkedRead_of_uninit {i : RegId} {s : State} (k : TaggedWord → Result) (h : (s.reg i).tag = .uninitialized) :
    checkedRead i s k = .next (s.raise .registerUninitialized (s.pc + 1)) := by
  simp [checkedRead, h, raiseExc]

/-- All that a checked read can do when it answers a next state. -/
theorem checkedRead_eq_next {i : RegId} {s t : State} {k : TaggedWord → Result} :
    checkedRead i s k = .next t ↔
      ((s.reg i).tag = .uninitialized ∧ s.raise .registerUninitialized (s.pc + 1) = t) ∨
      ((s.reg i).tag ≠ .uninitialized ∧ k (s.reg i) = .next t) := by
  by_cases h : (s.reg i).tag = .uninitialized <;> simp [checkedRead, h]

/-! ## Guard operands -/

/-- All that the check for a configured unit can do when it answers a next state. -/
theorem withConfigured_eq_next {g : GuardId} {s t : State} {k : GuardUnit → Result} :
    withConfigured g s k = .next t ↔ ∃ u, s.unit? g = some u ∧ u.kind ≠ .unconfigured ∧ k u = .next t := by
  unfold withConfigured
  split
  · simp [*]
  · simp [*, GuardUnit.kind]
  · next u hu _ => cases u <;> simp_all [GuardUnit.kind]

/-- A configured unit passes the check. -/
theorem withConfigured_of_unit {g : GuardId} {s : State} {u : GuardUnit} (k : GuardUnit → Result)
    (h : s.unit? g = some u) (hu : u.kind ≠ .unconfigured) : withConfigured g s k = k u := by
  cases u <;> simp_all [withConfigured, GuardUnit.kind]

/-- All that the check for a shift-register unit can do when it answers a next state. -/
theorem withSr_eq_next {g : GuardId} {s t : State} {k : RegId → Nat → List Bool → Option Nat → Result} :
    withSr g s k = .next t ↔ ∃ cond n bits dl, s.unit? g = some (.sr cond n bits dl) ∧ k cond n bits dl = .next t := by
  unfold withSr
  split <;> simp_all

/-- A shift-register unit passes the check. -/
theorem withSr_of_unit {g : GuardId} {s : State} {cond n bits dl} (k : RegId → Nat → List Bool → Option Nat → Result)
    (h : s.unit? g = some (.sr cond n bits dl)) : withSr g s k = k cond n bits dl := by
  simp [withSr, h]

/-- All that the check for a counter unit can do when it answers a next state. -/
theorem withCtr_eq_next {g : GuardId} {s t : State} {k : RegId → Nat → Nat → Option Nat → Result} :
    withCtr g s k = .next t ↔ ∃ cond n count dl, s.unit? g = some (.ctr cond n count dl) ∧ k cond n count dl = .next t := by
  unfold withCtr
  split <;> simp_all

/-- A counter unit passes the check. -/
theorem withCtr_of_unit {g : GuardId} {s : State} {cond n count dl} (k : RegId → Nat → Nat → Option Nat → Result)
    (h : s.unit? g = some (.ctr cond n count dl)) : withCtr g s k = k cond n count dl := by
  simp [withCtr, h]

/-! ## Guard units -/

/-- The functions of GUARD_MODEL at its default. -/
theorem guardFns_of_laws {cfg : Params} (h : cfg.guardModel = .laws) : cfg.guardFns = lawGuards := by
  simp [Params.guardFns, h]

@[simp] theorem kind_withDeadline (dl : Option Nat) (u : GuardUnit) : (u.withDeadline dl).kind = u.kind := by cases u <;> rfl
@[simp] theorem deadline_withDeadline (dl : Option Nat) (u : GuardUnit) : (u.withDeadline dl).deadline = dl := by cases u <;> rfl
@[simp] theorem withDeadline_deadline (dl : Option Nat) (u : GuardUnit) : (u.withDeadline dl).withDeadline u.deadline = u := by
  cases u <;> rfl
@[simp] theorem active_withDeadline (fns : GuardFunctions) (dl : Option Nat) (u : GuardUnit) :
    (u.withDeadline dl).active fns = u.active fns := by cases u <;> rfl

/-- A tick of a shift register that holds samples (42_temporal_tier.md R143). -/
theorem srShift_of_ne_nil (c : Bool) {bits : List Bool} (h : bits ≠ []) : srShift c bits = c :: bits.dropLast := by
  obtain ⟨b, rest, rfl⟩ := List.exists_cons_of_ne_nil h
  simp [srShift, List.dropLast_eq_take]

@[simp] theorem srShift_length (c : Bool) (bits : List Bool) : (srShift c bits).length = bits.length := by
  simp [srShift]

/-! ## The parameter ALU_FN -/

/-- ALU_FN at its default. -/
theorem aluBinary_of_laws {cfg : Params} (h : cfg.aluModel = .laws) (op : AluOp) (va vb : TaggedWord) :
    cfg.aluBinary op va vb = aluFn op va vb := by
  simp [Params.aluBinary, h]

/-- NOT and NEG at their default. -/
theorem aluUnary_of_laws {cfg : Params} (h : cfg.aluModel = .laws) (op : AluUnaryOp) (va : TaggedWord) :
    cfg.aluUnary op va = aluUnaryFn op va := by
  simp [Params.aluUnary, h]

/-- Whatever ALU_FN is, a result's provenance is Computed (41_alu_tier.md R110). -/
theorem aluBinary_prov (cfg : Params) (op : AluOp) (va vb : TaggedWord) : (cfg.aluBinary op va vb).prov = .computed := by
  unfold Params.aluBinary
  split
  · cases op <;> rfl
  · rfl

theorem aluUnary_prov (cfg : Params) (op : AluUnaryOp) (va : TaggedWord) : (cfg.aluUnary op va).prov = .computed := by
  unfold Params.aluUnary
  split
  · cases op <;> rfl
  · rfl

/-! ## Taking an exception -/

/-- The fields that taking an exception never touches (60_exceptions.md R231). -/
theorem raise_only (s : State) (c : ExcCode) (resume : Nat) : OnlyControl s (s.raise c resume) := by
  unfold OnlyControl State.raise State.handle State.unhandled
  dsimp only
  split
  · rfl
  · split
    · split <;> rfl
    · split <;> rfl

section
variable (s : State) (c : ExcCode) (r : Nat)
@[simp] theorem raise_cfg : (s.raise c r).cfg = s.cfg := by rw [raise_only s c r]
@[simp] theorem raise_regs : (s.raise c r).regs = s.regs := by rw [raise_only s c r]
@[simp] theorem raise_guards : (s.raise c r).guards = s.guards := by rw [raise_only s c r]
@[simp] theorem raise_cycle : (s.raise c r).cycle = s.cycle := by rw [raise_only s c r]
@[simp] theorem raise_tick : (s.raise c r).tick = s.tick := by rw [raise_only s c r]
@[simp] theorem raise_hist : (s.raise c r).hist = s.hist := by rw [raise_only s c r]
@[simp] theorem raise_outport : (s.raise c r).outport = s.outport := by rw [raise_only s c r]
@[simp] theorem raise_outlog : (s.raise c r).outlog = s.outlog := by rw [raise_only s c r]
@[simp] theorem raise_reg (i : RegId) : (s.raise c r).reg i = s.reg i := by simp [State.reg]
@[simp] theorem raise_unit (g : GuardId) : (s.raise c r).unit? g = s.unit? g := by simp [State.unit?]
@[simp] theorem raise_port (p : PortId) : (s.raise c r).port p = s.port p := by simp [State.port]
end

/-- At depth 8 the machine stops before the table is searched (60_exceptions.md R228). -/
theorem raise_of_maxDepth {s : State} (c : ExcCode) (r : Nat) (h : s.depth = Config.maxExceptionDepth) :
    s.raise c r = { s with exc := some c, run := .emergencyStopped (.depthOverflow c) } := by
  simp [State.raise, h]

/-- Below depth 8 a matching entry decides (60_exceptions.md R230). -/
theorem raise_of_handler {s : State} {c : ExcCode} {e : HandlerEntry} (r : Nat) (h : s.depth ≠ Config.maxExceptionDepth)
    (he : s.cfg.handlerFor c = some e) : s.raise c r = State.handle { s with exc := some c } c r e := by
  simp [State.raise, h, he]

/-- Below depth 8 with no matching entry the mode's default decides (60_exceptions.md R230). -/
theorem raise_of_noHandler {s : State} {c : ExcCode} (r : Nat) (h : s.depth ≠ Config.maxExceptionDepth)
    (he : s.cfg.handlerFor c = none) : s.raise c r = State.unhandled { s with exc := some c } c := by
  simp [State.raise, h, he]

/-- All that taking an exception can do. -/
theorem raise_cases (s : State) (c : ExcCode) (r : Nat) :
    (s.depth = Config.maxExceptionDepth ∧
      s.raise c r = { s with exc := some c, run := .emergencyStopped (.depthOverflow c) }) ∨
    (s.depth ≠ Config.maxExceptionDepth ∧ ∃ e, s.cfg.handlerFor c = some e ∧
      ((e.action = none ∧ s.raise c r = { s with exc := some c, depth := s.depth + 1, pc := e.address }) ∨
       (e.action = some .emergencyStop ∧ s.raise c r = { s with exc := some c, run := .emergencyStopped (.action c) }) ∨
       (e.action = some .ignoreAndContinue ∧ s.raise c r = { s with exc := none, pc := r }) ∨
       (e.action = some .trapToHost ∧ s.raise c r = { s with exc := some c, mode := .host, run := .trappedToHost c }) ∨
       (e.action = some .halt ∧ s.raise c r = { s with exc := some c, run := .haltedByException c }))) ∨
    (s.depth ≠ Config.maxExceptionDepth ∧ s.cfg.handlerFor c = none ∧
      ((s.mode = .reflex ∧ s.raise c r = { s with exc := some c, run := .emergencyStopped (.unhandled c) }) ∨
       (s.mode = .host ∧ s.raise c r = { s with exc := some c, run := .trappedToHost c }))) := by
  by_cases hd : s.depth = Config.maxExceptionDepth
  · exact .inl ⟨hd, raise_of_maxDepth c r hd⟩
  · refine .inr ?_
    cases he : s.cfg.handlerFor c with
    | some e =>
      refine .inl ⟨hd, e, rfl, ?_⟩
      rw [raise_of_handler r hd he]
      rcases ha : e.action with _ | a
      · simp [State.handle, ha]
      · cases a <;> simp [State.handle, ha]
    | none =>
      refine .inr ⟨hd, rfl, ?_⟩
      rw [raise_of_noHandler r hd he]
      cases hm : s.mode <;> simp [State.unhandled]

/-- The entry found is an entry of the table, for the code. -/
theorem handlerFor_mem {cfg : Params} {c : ExcCode} {e : HandlerEntry} (h : cfg.handlerFor c = some e) :
    e ∈ cfg.handlers ∧ e.code = c.number :=
  ⟨List.mem_of_find?_eq_some h, by simpa using List.find?_some h⟩

end Sys2Proof.Machine
end

