-- ==== Sys2Proof/Laws/Effects.lean ====
section
/-!
SUPPORT. Says once what an instruction can do: whatever next state `exec` answers, it is one of seven effects on the state
before. Invariants and frames are derived from this lemma instead of unfolding the thirty meanings.
-/

namespace Sys2Proof.Machine

/-- Every word that an instruction could copy or load is within its range. -/
structure WordsLegal (s : State) : Prop where
  portTypes : ∀ e ∈ s.cfg.inPortTypes, e.2.legal = true
  regs : ∀ r, (s.reg r).legal = true
  hist : ∀ f ∈ s.hist, ∀ k : Fin 256, (f[k]).legal = true

/-- The opcodes of the instructions that write a register (10_state.md R15). -/
def regWriters : List Nat := [0, 2, 3, 4, 5, 6, 9, 12, 13, 14, 15, 16, 24, 26]

/-- The opcodes of the instructions that write a guard unit (10_state.md R24, 47_temporal_extension.md R210). -/
def unitWriters : List Nat := [7, 8, 10, 11, 29]

/-- The effects an instruction can have on a state (Effect i s t: instruction i takes s to t). -/
inductive Effect (i : Instr) (s : State) : State → Prop where
  /-- Only the pc advances. -/
  | pc : Effect i s s.advance
  /-- One register is written. -/
  | reg (dst : RegId) (v : TaggedWord) (writer : i.opcode ∈ regWriters) (legal : WordsLegal s → v.legal = true) :
      Effect i s (s.setReg dst v).advance
  /-- One guard unit is written. -/
  | unit (g : GuardId) (u : GuardUnit) (writer : i.opcode ∈ unitWriters) (exists_ : g.toNat < 64)
      (legal : (∀ w, s.unit? g = some w → w.legal s.cfg.guardModel = true) → u.legal s.cfg.guardModel = true) : Effect i s (s.setUnit g u).advance
  /-- One output port is written, by STORE_OUTPUT. -/
  | port (src : RegId) (p : PortId) (writer : i = .storeOutput src p) (exists_ : p.toNat < s.cfg.nOutPorts) :
      Effect i s (s.portWrite p (s.reg src)).advance
  /-- The mode is switched, by MODE_SWITCH; to reflex mode with quiescence only. -/
  | mode (m : Mode) (target : BitVec 26) (writer : i = .modeSwitch target)
      (quiescent : m = .reflex → Config.quiescent s.cycle = true) : Effect i s { s with mode := m }.advance
  /-- An exception is taken. -/
  | raise (c : ExcCode) : Effect i s (s.raise c (s.pc + 1))
  /-- The machine stops by HALT or EMERGENCY_STOP. -/
  | stop (r : RunState)
      (writer : (∃ n, i = .halt n ∧ r = .halted n) ∨ (i = .emergencyStop ∧ r = .emergencyStopped .instruction)) :
      Effect i s { s with run := r }

/-! ## The words that instructions build are legal -/

@[simp] theorem build_w (tag : Tag) (w : Nat) (n : Int) (p : Prov) :
    (TaggedWord.build tag w n p).w = if tag = .bool then 1 else w := by
  cases tag <;> simp [TaggedWord.build]

@[simp] theorem build_tag (tag : Tag) (w : Nat) (n : Int) (p : Prov) : (TaggedWord.build tag w n p).tag = tag := rfl

@[simp] theorem build_prov (tag : Tag) (w : Nat) (n : Int) (p : Prov) : (TaggedWord.build tag w n p).prov = p := rfl

/-- A word whose width lies in 1..64 is within MAX_TAGGED_WORD_BITS (00_scope.md R3), so the width is all there is to check. -/
theorem legal_iff (v : TaggedWord) : v.legal = true ↔ 1 ≤ v.w ∧ v.w ≤ 64 := by
  have hb : v.w ≤ 64 → v.bits ≤ Config.maxTaggedWordBits := by
    intro h
    have hl : Nat.log2 v.w ≤ 6 := by
      by_cases h0 : v.w = 0
      · rw [h0]; decide
      · exact Nat.lt_succ_iff.mp ((Nat.log2_lt h0).mpr (by omega))
    cases hp : v.prov <;>
      simp only [TaggedWord.bits, hp, Config.valueBits, Config.tagBits, Config.provBits, Config.portBits,
        Config.maxTaggedWordBits] <;>
      omega
  simp only [TaggedWord.legal, Bool.and_eq_true, decide_eq_true_eq]
  exact ⟨fun h => h.1, fun h => ⟨h, hb h.2⟩⟩

theorem ofBool_legal (b : Bool) : (TaggedWord.ofBool b).legal = true := by
  simp [legal_iff, TaggedWord.ofBool]

/-- The width of a legal word lies in 1..64. -/
theorem wd_range {v : TaggedWord} (h : v.legal = true) : 1 ≤ v.wd ∧ v.wd ≤ 64 := by
  rw [legal_iff] at h
  unfold TaggedWord.wd
  split <;> omega

theorem likeFirst_legal {va : TaggedWord} (r : Int) (h : va.legal = true) : (likeFirst va r).legal = true := by
  have := wd_range h
  simp only [legal_iff, likeFirst, build_w]
  split <;> omega

theorem aluFn_legal (op : AluOp) {va : TaggedWord} (vb : TaggedWord) (h : va.legal = true) : (aluFn op va vb).legal = true := by
  cases op
  all_goals first
    | exact likeFirst_legal _ h
    | exact ofBool_legal _

theorem aluUnaryFn_legal (op : AluUnaryOp) {va : TaggedWord} (h : va.legal = true) : (aluUnaryFn op va).legal = true := by
  cases op <;> exact likeFirst_legal _ h

theorem resultWord_legal (r : AluResult) : (resultWord r).legal = true := by
  have := r.width.isLt
  simp only [legal_iff, resultWord]
  omega

theorem aluBinary_legal (cfg : Params) (op : AluOp) {va : TaggedWord} (vb : TaggedWord) (h : va.legal = true) :
    (cfg.aluBinary op va vb).legal = true := by
  unfold Params.aluBinary
  split
  · exact aluFn_legal op vb h
  · exact resultWord_legal _

theorem aluUnary_legal (cfg : Params) (op : AluUnaryOp) {va : TaggedWord} (h : va.legal = true) :
    (cfg.aluUnary op va).legal = true := by
  unfold Params.aluUnary
  split
  · exact aluUnaryFn_legal op h
  · exact resultWord_legal _

theorem portType_legal {s : State} (h : WordsLegal s) (p : PortId) : (s.cfg.portType p).legal = true := by
  unfold Params.portType
  split
  · next e he => exact h.portTypes e (List.mem_of_find?_eq_some he)
  · decide

/-! ## The units that instructions leave are legal -/

theorem deadline_legal {m : GuardModel} {u : GuardUnit} (h : u.legal m = true) : deadlineLegal u.deadline = true := by
  cases u <;> simp_all [GuardUnit.legal, GuardUnit.deadline]

theorem withDeadline_legal {m : GuardModel} {u : GuardUnit} (dl : Option Nat) (h : u.legal m = true)
    (hd : deadlineLegal dl = true) : (u.withDeadline dl).legal m = true := by
  cases u <;> simp_all [GuardUnit.legal, GuardUnit.withDeadline]

/-- Under the laws SR_INIT leaves n samples and SR_TICK as many as there were. -/
theorem srInit_length {cfg : Params} (n : Nat) (h : cfg.guardModel = .laws) : (cfg.guardFns.srInit n).length = n := by
  simp [guardFns_of_laws h, lawGuards, srFresh]

theorem srTick_length {cfg : Params} (c : Bool) (n : Nat) (bits : List Bool) (h : cfg.guardModel = .laws) :
    (cfg.guardFns.srTick c n bits).length = bits.length := by
  simp [guardFns_of_laws h, lawGuards]

/-- Under the laws a counter stays at most its target. -/
theorem ctrTick_le {cfg : Params} (c : Bool) {n count : Nat} (h : cfg.guardModel = .laws) (hc : count ≤ n) :
    cfg.guardFns.ctrTick c n count ≤ n := by
  simp only [guardFns_of_laws h, lawGuards, ctrCount]
  split <;> omega

/-! ## The inversion lemma -/

theorem effect_of_checkedRead {j : Instr} {s t : State} {i : RegId} {k : TaggedWord → Result}
    (hk : (s.reg i).tag ≠ .uninitialized → k (s.reg i) = .next t → Effect j s t) (h : checkedRead i s k = .next t) :
    Effect j s t := by
  rcases checkedRead_eq_next.mp h with ⟨_, rfl⟩ | ⟨hi, hn⟩
  · exact .raise _
  · exact hk hi hn

theorem effect_of_writeReg {j : Instr} {s t : State} {dst : RegId} {v : TaggedWord} (hj : j.opcode ∈ regWriters)
    (hv : WordsLegal s → v.legal = true) (h : writeReg dst v s = .next t) : Effect j s t := by
  obtain rfl := (writeReg_eq_next ..).mp h
  exact .reg dst v hj hv

theorem effect_of_complete {j : Instr} {s t : State} (h : complete s = .next t) : Effect j s t := by
  obtain rfl := (complete_eq_next ..).mp h
  exact .pc

theorem effect_of_raiseExc {j : Instr} {s t : State} {c : ExcCode} (h : raiseExc c s = .next t) : Effect j s t := by
  obtain rfl := (raiseExc_eq_next ..).mp h
  exact .raise c

theorem prevWord_legal {s : State} {r : RegId} {d : Nat} {v : TaggedWord} (h : s.prevWord? r d = some v) (hs : WordsLegal s) :
    v.legal = true := by
  unfold State.prevWord? at h
  split at h
  · cases h; exact hs.regs r
  · split at h
    · split at h
      · next snap hsnap =>
        cases h
        have hlt : r.toNat < 256 := by have := r.isLt; omega
        exact hs.hist snap (List.mem_of_getElem? hsnap) ⟨r.toNat, hlt⟩
      · cases h
    · cases h

theorem effect_of_assertUnless {j : Instr} {s t : State} {bad : Bool} {cond : RegId}
    (h : assertUnless bad cond s = .next t) : Effect j s t := by
  unfold assertUnless at h
  split at h
  · refine effect_of_checkedRead (fun _ hn => ?_) h
    split at hn
    · exact effect_of_raiseExc hn
    · exact effect_of_complete hn
  · exact effect_of_complete h

/-- All that an instruction can do when it answers a next state. -/
theorem effect_of_exec {i : Instr} {s t : State} (h : exec i s = .next t) : Effect i s t := by
  cases i with
  | loadInput dst port =>
    simp only [exec, execLoadInput] at h
    split at h
    · cases h
    · refine effect_of_writeReg (by simp [regWriters, Instr.opcode]) (fun hs => ?_) h
      have := portType_legal hs port
      simp only [PortType.legal, Bool.and_eq_true, decide_eq_true_eq] at this
      simp only [legal_iff]
      exact ⟨this.1.1.2, this.1.2⟩
  | storeOutput src port =>
    simp only [exec, execStoreOutput] at h
    split at h
    · cases h
    · next hp =>
      refine effect_of_checkedRead (fun _ hn => ?_) h
      obtain rfl := (complete_eq_next ..).mp hn
      exact .port src port rfl (by omega)
  | mov dst src =>
    simp only [exec, execMov] at h
    refine effect_of_checkedRead (fun _ hn => ?_) h
    exact effect_of_writeReg (by simp [regWriters, Instr.opcode]) (fun hs => hs.regs src) hn
  | loadImm dst value width =>
    simp only [exec, execLoadImm] at h
    split at h
    · cases h
    · refine effect_of_writeReg (by simp [regWriters, Instr.opcode]) (fun _ => ?_) h
      simp only [legal_iff, build_w, reduceCtorEq, if_false]
      omega
  | alu op dst a b =>
    simp only [exec, execAlu] at h
    split at h
    · cases h
    · refine effect_of_checkedRead (fun _ hn => effect_of_checkedRead (fun _ hm => ?_) hn) h
      exact effect_of_writeReg (by simp [regWriters, Instr.opcode]) (fun hs => aluBinary_legal _ _ _ (hs.regs a)) hm
  | aluImm op dst a imm =>
    simp only [exec, execAluImm] at h
    split at h
    · cases h
    · refine effect_of_checkedRead (fun _ hn => ?_) h
      exact effect_of_writeReg (by simp [regWriters, Instr.opcode]) (fun hs => aluBinary_legal _ _ _ (hs.regs a)) hn
  | aluUnary op dst src =>
    simp only [exec, execAluUnary] at h
    split at h
    · cases h
    · refine effect_of_checkedRead (fun _ hn => ?_) h
      exact effect_of_writeReg (by simp [regWriters, Instr.opcode]) (fun hs => aluUnary_legal _ _ (hs.regs src)) hn
  | srInit g length cond =>
    simp only [exec, execSrInit] at h
    split at h
    · cases h
    · next u hu =>
      split at h
      · cases h
      · obtain rfl := (complete_eq_next ..).mp h
        refine .unit g _ (by simp [unitWriters, Instr.opcode]) (unit_lt hu) (fun hw => ?_)
        have hd := deadline_legal (hw u hu)
        have := length.isLt
        simp only [GuardUnit.legal, hd, Bool.and_true, Bool.and_eq_true, Bool.or_eq_true, decide_eq_true_eq, bne_iff_ne,
          beq_iff_eq]
        exact ⟨by omega, or_iff_not_imp_left.mpr fun hm => srInit_length _ (not_not.mp hm)⟩
  | srTick g =>
    simp only [exec, execSrTick, withSr_eq_next] at h
    obtain ⟨cond, n, bits, dl, hu, hk⟩ := h
    split at hk
    · exact effect_of_complete hk
    · refine effect_of_checkedRead (fun _ hn => ?_) hk
      obtain rfl := (complete_eq_next ..).mp hn
      refine .unit g _ (by simp [unitWriters, Instr.opcode]) (unit_lt hu) (fun hw => ?_)
      have hl := hw _ hu
      simp only [GuardUnit.legal, Bool.and_eq_true, Bool.or_eq_true, decide_eq_true_eq, bne_iff_ne, beq_iff_eq] at hl ⊢
      refine ⟨⟨hl.1.1, or_iff_not_imp_left.mpr fun hm => ?_⟩, hl.2⟩
      rw [srTick_length _ _ _ (not_not.mp hm)]
      exact hl.1.2.resolve_left hm
  | srQuery dst g =>
    simp only [exec, execSrQuery, withSr_eq_next] at h
    obtain ⟨cond, n, bits, dl, hu, hk⟩ := h
    exact effect_of_writeReg (by simp [regWriters, Instr.opcode]) (fun _ => ofBool_legal _) hk
  | ctrInit g target cond =>
    simp only [exec, execCtrInit] at h
    split at h
    · cases h
    · next u hu =>
      split at h
      · cases h
      · obtain rfl := (complete_eq_next ..).mp h
        refine .unit g _ (by simp [unitWriters, Instr.opcode]) (unit_lt hu) (fun hw => ?_)
        have hd := deadline_legal (hw u hu)
        have := target.isLt
        simp only [GuardUnit.legal, hd, Bool.and_true, Bool.and_eq_true, Bool.or_eq_true, decide_eq_true_eq, bne_iff_ne]
        refine ⟨by omega, or_iff_not_imp_left.mpr fun hm => ?_⟩
        simp [guardFns_of_laws (not_not.mp hm), lawGuards]
  | ctrTick g =>
    simp only [exec, execCtrTick, withCtr_eq_next] at h
    obtain ⟨cond, n, count, dl, hu, hk⟩ := h
    split at hk
    · exact effect_of_complete hk
    · refine effect_of_checkedRead (fun _ hn => ?_) hk
      obtain rfl := (complete_eq_next ..).mp hn
      refine .unit g _ (by simp [unitWriters, Instr.opcode]) (unit_lt hu) (fun hw => ?_)
      have hl := hw _ hu
      simp only [GuardUnit.legal, Bool.and_eq_true, Bool.or_eq_true, decide_eq_true_eq, bne_iff_ne] at hl ⊢
      exact ⟨⟨hl.1.1, or_iff_not_imp_left.mpr fun hm => ctrTick_le _ (not_not.mp hm) (hl.1.2.resolve_left hm)⟩, hl.2⟩
  | ctrQuery dst g =>
    simp only [exec, execCtrQuery, withCtr_eq_next] at h
    obtain ⟨cond, n, count, dl, hu, hk⟩ := h
    exact effect_of_writeReg (by simp [regWriters, Instr.opcode]) (fun _ => ofBool_legal _) hk
  | guardAnd dst a b =>
    simp only [exec, execGuardAnd, withConfigured_eq_next] at h
    obtain ⟨_, _, _, _, _, _, hk⟩ := h
    exact effect_of_writeReg (by simp [regWriters, Instr.opcode]) (fun _ => ofBool_legal _) hk
  | guardOr dst a b =>
    simp only [exec, execGuardOr, withConfigured_eq_next] at h
    obtain ⟨_, _, _, _, _, _, hk⟩ := h
    exact effect_of_writeReg (by simp [regWriters, Instr.opcode]) (fun _ => ofBool_legal _) hk
  | reflexIf g dst src =>
    simp only [exec, execReflexIf, withConfigured_eq_next] at h
    obtain ⟨_, _, _, hk⟩ := h
    split at hk
    · refine effect_of_checkedRead (fun _ hn => ?_) hk
      exact effect_of_writeReg (by simp [regWriters, Instr.opcode]) (fun hs => hs.regs src) hn
    · exact effect_of_complete hk
  | prev dst signal delay =>
    simp only [exec, execPrev] at h
    split at h
    · cases h
    · next v hv =>
      split at h
      · exact effect_of_raiseExc h
      · exact effect_of_writeReg (by simp [regWriters, Instr.opcode]) (prevWord_legal hv) h
  | emergencyStop => cases h; exact .stop _ (.inr ⟨rfl, rfl⟩)
  | assertAlways cond pid => exact effect_of_assertUnless h
  | assertNever cond pid => exact effect_of_assertUnless h
  | trap code =>
    simp only [exec, execTrap] at h
    split at h
    · cases h
    · exact effect_of_raiseExc h
  | trapIf cond code =>
    simp only [exec, execTrapIf] at h
    split at h
    · cases h
    · refine effect_of_checkedRead (fun _ hn => ?_) h
      split at hn
      · exact effect_of_raiseExc hn
      · exact effect_of_complete hn
  | halt exitCode => cases h; exact .stop _ (.inl ⟨_, rfl, rfl⟩)
  | modeSwitch target =>
    simp only [exec, execModeSwitch] at h
    split at h
    · cases h
    · split at h
      · cases h
      · split at h
        · obtain rfl := (complete_eq_next ..).mp h
          exact .mode .host target rfl (by simp)
        · split at h
          · next hq =>
            obtain rfl := (complete_eq_next ..).mp h
            exact .mode .reflex target rfl (fun _ => hq)
          · exact effect_of_raiseExc h
  | tagLoad dst tagValue =>
    simp only [exec, execTagLoad] at h
    split at h
    · cases h
    · refine effect_of_writeReg (by simp [regWriters, Instr.opcode]) (fun hs => ?_) h
      have := hs.regs dst
      simpa [legal_iff] using this
  | tagCheck src expectedTag =>
    simp only [exec, execTagCheck] at h
    split at h
    · cases h
    · split at h
      · exact effect_of_raiseExc h
      · exact effect_of_complete h
  | tagRead dst src =>
    refine effect_of_writeReg (by simp [regWriters, Instr.opcode]) (fun _ => ?_) h
    simp [legal_iff]
  | nop => exact effect_of_complete h
  | fence => exact effect_of_complete h
  | deadlineSet g maxCycles =>
    simp only [exec, execDeadlineSet, withConfigured_eq_next] at h
    obtain ⟨u, hu, _, hk⟩ := h
    split at hk
    · cases hk
    · obtain rfl := (complete_eq_next ..).mp hk
      refine .unit g _ (by simp [unitWriters, Instr.opcode]) (unit_lt hu) (fun hw => withDeadline_legal _ (hw u hu) ?_)
      simp only [deadlineLegal, decide_eq_true_eq]
      omega

/-! ## The fields that no instruction writes -/

theorem Effect.keeps {i : Instr} {s t : State} (h : Effect i s t) :
    t.cfg = s.cfg ∧ t.cycle = s.cycle ∧ t.tick = s.tick ∧ t.hist = s.hist := by
  cases h <;> simp

end Sys2Proof.Machine
end

