-- ==== Sys2Proof/Laws/Encoding.lean ====
section
/-!
SUPPORT. The fields of an assembled word: each field function of the decoder reads back the operand that the encoder's
format functions put there (30_encoding.md R61 to R64, R66, R68).
-/

namespace Sys2Proof

section
variable (o : BitVec 6) (a b c : BitVec 8) (f : BitVec 2) (m : BitVec 10) (n : BitVec 26) (k : BitVec 18) (t p : BitVec 4)
  (l : BitVec 6)

@[simp] theorem opcodeField_wordRG : opcodeField (wordRG o a b c f) = o := by
  apply BitVec.eq_of_getLsbD_eq; intro i hi
  simp only [opcodeField, wordRG, BitVec.getLsbD_extractLsb', BitVec.getLsbD_append]
  split_ifs <;> first | omega | (simp only [hi, decide_true, Bool.true_and]; congr 1; omega)

@[simp] theorem fieldA_wordRG : fieldA (wordRG o a b c f) = a := by
  apply BitVec.eq_of_getLsbD_eq; intro i hi
  simp only [fieldA, wordRG, BitVec.getLsbD_extractLsb', BitVec.getLsbD_append]
  split_ifs <;> first | omega | (simp only [hi, decide_true, Bool.true_and]; congr 1; omega)

@[simp] theorem fieldB_wordRG : fieldB (wordRG o a b c f) = b := by
  apply BitVec.eq_of_getLsbD_eq; intro i hi
  simp only [fieldB, wordRG, BitVec.getLsbD_extractLsb', BitVec.getLsbD_append]
  split_ifs <;> first | omega | (simp only [hi, decide_true, Bool.true_and]; congr 1; omega)

@[simp] theorem fieldC_wordRG : fieldC (wordRG o a b c f) = c := by
  apply BitVec.eq_of_getLsbD_eq; intro i hi
  simp only [fieldC, wordRG, BitVec.getLsbD_extractLsb', BitVec.getLsbD_append]
  split_ifs <;> first | omega | (simp only [hi, decide_true, Bool.true_and]; congr 1; omega)

@[simp] theorem funcField_wordRG : funcField (wordRG o a b c f) = f := by
  apply BitVec.eq_of_getLsbD_eq; intro i hi
  simp only [funcField, wordRG, BitVec.getLsbD_extractLsb', BitVec.getLsbD_append]
  split_ifs <;> first | omega | (simp only [hi, decide_true, Bool.true_and]; congr 1; omega)

@[simp] theorem opcodeField_wordI : opcodeField (wordI o a b m) = o := by
  apply BitVec.eq_of_getLsbD_eq; intro i hi
  simp only [opcodeField, wordI, BitVec.getLsbD_extractLsb', BitVec.getLsbD_append]
  split_ifs <;> first | omega | (simp only [hi, decide_true, Bool.true_and]; congr 1; omega)

@[simp] theorem fieldA_wordI : fieldA (wordI o a b m) = a := by
  apply BitVec.eq_of_getLsbD_eq; intro i hi
  simp only [fieldA, wordI, BitVec.getLsbD_extractLsb', BitVec.getLsbD_append]
  split_ifs <;> first | omega | (simp only [hi, decide_true, Bool.true_and]; congr 1; omega)

@[simp] theorem fieldB_wordI : fieldB (wordI o a b m) = b := by
  apply BitVec.eq_of_getLsbD_eq; intro i hi
  simp only [fieldB, wordI, BitVec.getLsbD_extractLsb', BitVec.getLsbD_append]
  split_ifs <;> first | omega | (simp only [hi, decide_true, Bool.true_and]; congr 1; omega)

@[simp] theorem imm10_wordI : imm10 (wordI o a b m) = m := by
  apply BitVec.eq_of_getLsbD_eq; intro i hi
  simp only [imm10, wordI, BitVec.getLsbD_extractLsb', BitVec.getLsbD_append]
  split_ifs <;> first | omega | (simp only [hi, decide_true, Bool.true_and]; congr 1; omega)

@[simp] theorem opcodeField_wordS : opcodeField (wordS o n) = o := by
  apply BitVec.eq_of_getLsbD_eq; intro i hi
  simp only [opcodeField, wordS, BitVec.getLsbD_extractLsb', BitVec.getLsbD_append]
  split_ifs <;> first | omega | (simp only [hi, decide_true, Bool.true_and]; congr 1; omega)

@[simp] theorem imm26_wordS : imm26 (wordS o n) = n := by
  apply BitVec.eq_of_getLsbD_eq; intro i hi
  simp only [imm26, wordS, BitVec.getLsbD_extractLsb', BitVec.getLsbD_append]
  split_ifs <;> first | omega | (simp only [hi, decide_true, Bool.true_and]; congr 1; omega)

@[simp] theorem opcodeField_wordSA : opcodeField (wordSA o a k) = o := by
  apply BitVec.eq_of_getLsbD_eq; intro i hi
  simp only [opcodeField, wordSA, BitVec.getLsbD_extractLsb', BitVec.getLsbD_append]
  split_ifs <;> first | omega | (simp only [hi, decide_true, Bool.true_and]; congr 1; omega)

@[simp] theorem fieldA_wordSA : fieldA (wordSA o a k) = a := by
  apply BitVec.eq_of_getLsbD_eq; intro i hi
  simp only [fieldA, wordSA, BitVec.getLsbD_extractLsb', BitVec.getLsbD_append]
  split_ifs <;> first | omega | (simp only [hi, decide_true, Bool.true_and]; congr 1; omega)

@[simp] theorem imm18_wordSA : imm18 (wordSA o a k) = k := by
  apply BitVec.eq_of_getLsbD_eq; intro i hi
  simp only [imm18, wordSA, BitVec.getLsbD_extractLsb', BitVec.getLsbD_append]
  split_ifs <;> first | omega | (simp only [hi, decide_true, Bool.true_and]; congr 1; omega)

@[simp] theorem immOp_wordI : immOp (wordI o a b (p ++ l)) = p := by
  apply BitVec.eq_of_getLsbD_eq; intro i hi
  simp only [immOp, wordI, BitVec.getLsbD_extractLsb', BitVec.getLsbD_append]
  split_ifs <;> first | omega | (simp only [hi, decide_true, Bool.true_and]; congr 1; omega)

@[simp] theorem immLow_wordI : immLow (wordI o a b (p ++ l)) = l := by
  apply BitVec.eq_of_getLsbD_eq; intro i hi
  simp only [immLow, wordI, BitVec.getLsbD_extractLsb', BitVec.getLsbD_append]
  split_ifs <;> first | omega | (simp only [hi, decide_true, Bool.true_and]; congr 1; omega)

@[simp] theorem tagInB_wordRG : tagInB (wordRG o a (t ++ p) c f) = p := by
  apply BitVec.eq_of_getLsbD_eq; intro i hi
  simp only [tagInB, wordRG, BitVec.getLsbD_extractLsb', BitVec.getLsbD_append]
  split_ifs <;> first | omega | (simp only [hi, decide_true, Bool.true_and]; congr 1; omega)

@[simp] theorem restOfB_wordRG : restOfB (wordRG o a (t ++ p) c f) = t := by
  apply BitVec.eq_of_getLsbD_eq; intro i hi
  simp only [restOfB, wordRG, BitVec.getLsbD_extractLsb', BitVec.getLsbD_append]
  split_ifs <;> first | omega | (simp only [hi, decide_true, Bool.true_and]; congr 1; omega)

@[simp] theorem tagInC_wordRG : tagInC (wordRG o a b (t ++ p) f) = p := by
  apply BitVec.eq_of_getLsbD_eq; intro i hi
  simp only [tagInC, wordRG, BitVec.getLsbD_extractLsb', BitVec.getLsbD_append]
  split_ifs <;> first | omega | (simp only [hi, decide_true, Bool.true_and]; congr 1; omega)

@[simp] theorem restOfC_wordRG : restOfC (wordRG o a b (t ++ p) f) = t := by
  apply BitVec.eq_of_getLsbD_eq; intro i hi
  simp only [restOfC, wordRG, BitVec.getLsbD_extractLsb', BitVec.getLsbD_append]
  split_ifs <;> first | omega | (simp only [hi, decide_true, Bool.true_and]; congr 1; omega)

end

/-! ## A word is made of its fields -/

theorem wordRG_eta (w : Word) : wordRG (opcodeField w) (fieldA w) (fieldB w) (fieldC w) (funcField w) = w := by
  apply BitVec.eq_of_getLsbD_eq; intro i hi
  simp only [wordRG, opcodeField, fieldA, fieldB, fieldC, funcField, BitVec.getLsbD_extractLsb', BitVec.getLsbD_append]
  split_ifs <;> first
    | omega
    | (rw [decide_eq_true (by omega), Bool.true_and]; congr 1; omega)

theorem wordI_eta (w : Word) : wordI (opcodeField w) (fieldA w) (fieldB w) (imm10 w) = w := by
  apply BitVec.eq_of_getLsbD_eq; intro i hi
  simp only [wordI, opcodeField, fieldA, fieldB, imm10, BitVec.getLsbD_extractLsb', BitVec.getLsbD_append]
  split_ifs <;> first
    | omega
    | (rw [decide_eq_true (by omega), Bool.true_and]; congr 1; omega)

theorem wordS_eta (w : Word) : wordS (opcodeField w) (imm26 w) = w := by
  apply BitVec.eq_of_getLsbD_eq; intro i hi
  simp only [wordS, opcodeField, imm26, BitVec.getLsbD_extractLsb', BitVec.getLsbD_append]
  split_ifs <;> first
    | omega
    | (rw [decide_eq_true (by omega), Bool.true_and]; congr 1; omega)

theorem wordSA_eta (w : Word) : wordSA (opcodeField w) (fieldA w) (imm18 w) = w := by
  apply BitVec.eq_of_getLsbD_eq; intro i hi
  simp only [wordSA, opcodeField, fieldA, imm18, BitVec.getLsbD_extractLsb', BitVec.getLsbD_append]
  split_ifs <;> first
    | omega
    | (rw [decide_eq_true (by omega), Bool.true_and]; congr 1; omega)

theorem imm10_eta (w : Word) : immOp w ++ immLow w = imm10 w := by
  apply BitVec.eq_of_getLsbD_eq; intro i hi
  simp only [immOp, immLow, imm10, BitVec.getLsbD_extractLsb', BitVec.getLsbD_append, hi, decide_true, Bool.true_and]
  split_ifs <;> first
    | omega
    | (rw [decide_eq_true (by omega), Bool.true_and]; first | done | (congr 1; omega))

theorem fieldB_eta (w : Word) : restOfB w ++ tagInB w = fieldB w := by
  apply BitVec.eq_of_getLsbD_eq; intro i hi
  simp only [restOfB, tagInB, fieldB, BitVec.getLsbD_extractLsb', BitVec.getLsbD_append, hi, decide_true, Bool.true_and]
  split_ifs <;> first
    | omega
    | (rw [decide_eq_true (by omega), Bool.true_and]; first | done | (congr 1; omega))

theorem fieldC_eta (w : Word) : restOfC w ++ tagInC w = fieldC w := by
  apply BitVec.eq_of_getLsbD_eq; intro i hi
  simp only [restOfC, tagInC, fieldC, BitVec.getLsbD_extractLsb', BitVec.getLsbD_append, hi, decide_true, Bool.true_and]
  split_ifs <;> first
    | omega
    | (rw [decide_eq_true (by omega), Bool.true_and]; first | done | (congr 1; omega))

end Sys2Proof
end

