-- ==== Sys2Proof/Laws/PerInstr.lean ====
section
/-!
SUPPORT. The statements made per instruction, one lemma per constructor.

EncodedOpcode: whatever word the encoder gives an instruction, its top six bits hold the instruction's opcode number
(30_encoding.md R60, R80).
-/

namespace Sys2Proof.Laws.EncodedOpcode

open Sys2Proof

/-- The word of the instruction, if it has one, carries its opcode in word[31:26]. -/
def Statement (i : Instr) : Prop := ∀ w, encode i = some w → (opcodeField w).toNat = i.opcode

theorem loadInput (dst port) : Statement (.loadInput dst port) := by
  intro w h
  obtain rfl := Option.some.inj h
  simp [Instr.opcode]

theorem storeOutput (src port) : Statement (.storeOutput src port) := by
  intro w h
  obtain rfl := Option.some.inj h
  simp [Instr.opcode]

theorem mov (dst src) : Statement (.mov dst src) := by
  intro w h
  obtain rfl := Option.some.inj h
  simp [Instr.opcode]

theorem loadImm (dst value width) : Statement (.loadImm dst value width) := by
  intro w h
  obtain rfl := Option.some.inj h
  simp [Instr.opcode]

theorem alu (op dst a b) : Statement (.alu op dst a b) := by
  intro w h
  have hm := List.mem_of_find?_eq_some h
  simp only [aluCandidates, List.mem_cons, List.not_mem_nil, or_false] at hm
  rcases hm with rfl | rfl | rfl | rfl <;> simp [Instr.opcode]

theorem aluImm (op dst a imm) : Statement (.aluImm op dst a imm) := by
  intro w h
  obtain rfl := Option.some.inj h
  simp [Instr.opcode]

theorem aluUnary (op dst src) : Statement (.aluUnary op dst src) := by
  intro w h
  obtain rfl := Option.some.inj h
  simp [Instr.opcode]

theorem srInit (guard length cond) : Statement (.srInit guard length cond) := by
  intro w h
  obtain rfl := Option.some.inj h
  simp [Instr.opcode]

theorem srTick (guard) : Statement (.srTick guard) := by
  intro w h
  obtain rfl := Option.some.inj h
  simp [Instr.opcode]

theorem srQuery (dst guard) : Statement (.srQuery dst guard) := by
  intro w h
  obtain rfl := Option.some.inj h
  simp [Instr.opcode]

theorem ctrInit (guard target cond) : Statement (.ctrInit guard target cond) := by
  intro w h
  obtain rfl := Option.some.inj h
  simp [Instr.opcode]

theorem ctrTick (guard) : Statement (.ctrTick guard) := by
  intro w h
  obtain rfl := Option.some.inj h
  simp [Instr.opcode]

theorem ctrQuery (dst guard) : Statement (.ctrQuery dst guard) := by
  intro w h
  obtain rfl := Option.some.inj h
  simp [Instr.opcode]

theorem guardAnd (dst a b) : Statement (.guardAnd dst a b) := by
  intro w h
  obtain rfl := Option.some.inj h
  simp [Instr.opcode]

theorem guardOr (dst a b) : Statement (.guardOr dst a b) := by
  intro w h
  obtain rfl := Option.some.inj h
  simp [Instr.opcode]

theorem reflexIf (guard dst src) : Statement (.reflexIf guard dst src) := by
  intro w h
  obtain rfl := Option.some.inj h
  simp [Instr.opcode]

theorem prev (dst signal delay) : Statement (.prev dst signal delay) := by
  intro w h
  obtain rfl := Option.some.inj h
  simp [Instr.opcode]

theorem emergencyStop : Statement (.emergencyStop) := by
  intro w h
  obtain rfl := Option.some.inj h
  simp [Instr.opcode]

theorem assertAlways (cond propertyId) : Statement (.assertAlways cond propertyId) := by
  intro w h
  obtain rfl := Option.some.inj h
  simp [Instr.opcode]

theorem assertNever (cond propertyId) : Statement (.assertNever cond propertyId) := by
  intro w h
  obtain rfl := Option.some.inj h
  simp [Instr.opcode]

theorem trap (code) : Statement (.trap code) := by
  intro w h
  obtain rfl := Option.some.inj h
  simp [Instr.opcode]

theorem trapIf (cond code) : Statement (.trapIf cond code) := by
  intro w h
  obtain rfl := Option.some.inj h
  simp [Instr.opcode]

theorem halt (exitCode) : Statement (.halt exitCode) := by
  intro w h
  obtain rfl := Option.some.inj h
  simp [Instr.opcode]

theorem modeSwitch (target) : Statement (.modeSwitch target) := by
  intro w h
  obtain rfl := Option.some.inj h
  simp [Instr.opcode]

theorem tagLoad (dst tagValue) : Statement (.tagLoad dst tagValue) := by
  intro w h
  obtain rfl := Option.some.inj h
  simp [Instr.opcode]

theorem tagCheck (src expectedTag) : Statement (.tagCheck src expectedTag) := by
  intro w h
  obtain rfl := Option.some.inj h
  simp [Instr.opcode]

theorem tagRead (dst src) : Statement (.tagRead dst src) := by
  intro w h
  obtain rfl := Option.some.inj h
  simp [Instr.opcode]

theorem nop : Statement (.nop) := by
  intro w h
  obtain rfl := Option.some.inj h
  simp [Instr.opcode]

theorem fence : Statement (.fence) := by
  intro w h
  obtain rfl := Option.some.inj h
  simp [Instr.opcode]

theorem deadlineSet (guard maxCycles) : Statement (.deadlineSet guard maxCycles) := by
  intro w h
  obtain rfl := Option.some.inj h
  simp [Instr.opcode]

end Sys2Proof.Laws.EncodedOpcode
end

