-- ==== Sys2Proof/Laws/Step.lean ====
section
/-!
SUPPORT. What a whole step can do, said once: the inversion of the step, the host's action and the tick boundary before the
fetch, and the end of the cycle after the instruction.
-/

namespace Sys2Proof.Machine

/-! ## Before the fetch -/

/-- All that the host's action can do. -/
theorem hostPhase_cases (s : State) :
    s.hostPhase = s ∨ (s.mode = .host ∧ ∃ v, hostLegal s.cfg v = true ∧ s.hostPhase = s.withHostView v) := by
  unfold State.hostPhase
  split
  · exact .inl rfl
  · next hm =>
    dsimp only
    split
    · next hv => exact .inr ⟨hm, _, hv, rfl⟩
    · exact .inl rfl

/-- In reflex mode the host does not act. -/
theorem hostPhase_of_reflex {s : State} (h : s.mode = .reflex) : s.hostPhase = s := by
  simp [State.hostPhase, h]

section
variable (s : State)
@[simp] theorem hostPhase_cfg : s.hostPhase.cfg = s.cfg := by
  rcases hostPhase_cases s with h | ⟨_, v, _, h⟩ <;> simp [h]
@[simp] theorem hostPhase_mode : s.hostPhase.mode = s.mode := by
  rcases hostPhase_cases s with h | ⟨_, v, _, h⟩ <;> simp [h]
@[simp] theorem hostPhase_depth : s.hostPhase.depth = s.depth := by
  rcases hostPhase_cases s with h | ⟨_, v, _, h⟩ <;> simp [h]
@[simp] theorem hostPhase_run : s.hostPhase.run = s.run := by
  rcases hostPhase_cases s with h | ⟨_, v, _, h⟩ <;> simp [h]
@[simp] theorem hostPhase_cycle : s.hostPhase.cycle = s.cycle := by
  rcases hostPhase_cases s with h | ⟨_, v, _, h⟩ <;> simp [h]
@[simp] theorem hostPhase_tick : s.hostPhase.tick = s.tick := by
  rcases hostPhase_cases s with h | ⟨_, v, _, h⟩ <;> simp [h]
@[simp] theorem hostPhase_hist : s.hostPhase.hist = s.hist := by
  rcases hostPhase_cases s with h | ⟨_, v, _, h⟩ <;> simp [h]
@[simp] theorem hostPhase_outport : s.hostPhase.outport = s.outport := by
  rcases hostPhase_cases s with h | ⟨_, v, _, h⟩ <;> simp [h]
@[simp] theorem hostPhase_outlog : s.hostPhase.outlog = s.outlog := by
  rcases hostPhase_cases s with h | ⟨_, v, _, h⟩ <;> simp [h]
end

/-- All that the end-of-program check can do when it answers a state. -/
theorem endOfProgram_eq_some {s u : State} :
    s.endOfProgram = some u ↔
      (s.pc < s.cfg.program.length ∧ u = s) ∨
      (s.cfg.program.length ≤ s.pc ∧ s.cfg.endOfProgram = .wrap ∧ u = s.tickBoundary) := by
  unfold State.endOfProgram
  split
  · next h => simp [h, Nat.not_le.mpr h, eq_comm]
  · next h =>
    split
    · next he => simp [h, he]
    · next he => simp [h, he, Nat.not_lt.mp h, eq_comm]

/-! ## The whole step -/

/-- All that a step can do when it answers a next state. -/
theorem step_eq_next {s t : State} :
    step s = .next t ↔
      s.run = .running ∧ s.cfg.refusal = none ∧
        ∃ u i v, s.fetches u i ∧ exec i u = .next v ∧ t = endOfCycle u.mode i v := by
  constructor
  · intro h
    unfold step at h
    split at h
    · next hr =>
      split at h
      · cases h
      · next hc =>
        split at h
        · cases h
        · next u hu =>
          unfold fetchAndExecute at h
          split at h
          · cases h
          · next w hw =>
            split at h
            · cases h
            · next i hi =>
              split at h
              · next v hv => cases h; exact ⟨hr, hc, u, i, v, ⟨hu, w, hw, hi⟩, hv, rfl⟩
              · cases h
              · cases h
    · cases h
  · rintro ⟨hr, hc, u, i, v, ⟨hu, w, hw, hi⟩, hv, rfl⟩
    simp only [step, hr, if_true, hc, hu, fetchAndExecute, hw, hi, hv]

/-- The parameters are in place when a machine steps. -/
theorem refusal_eq_none {cfg : Params} :
    cfg.refusal = none ↔ (cfg.program.length ≠ 0 ∧ cfg.program.length ≤ 4096) ∧ cfg.handlers.length ≤ 16 ∧
      ∀ e ∈ cfg.handlers, (1 ≤ e.code ∧ e.code ≤ 6) ∧ e.address < cfg.program.length := by
  unfold Params.refusal
  split
  · next h =>
    simp only [reduceCtorEq, false_iff, not_and]
    intro h'
    simp only [Config.maxInstructions] at h
    omega
  · next h =>
    simp only [Config.maxInstructions, not_or, Nat.not_lt] at h
    split
    · next h' =>
      simp only [reduceCtorEq, false_iff, not_and]
      intro _ h16 hall
      rcases h' with h' | h'
      · simp only [Config.maxTrapHandlers] at h'; omega
      · exact h' (by simpa [HandlerEntry.legal] using hall)
    · next h' =>
      simp only [true_iff, Config.maxTrapHandlers, not_or, Nat.not_lt, not_not] at h' ⊢
      exact ⟨h, h'.1, by simpa [HandlerEntry.legal] using h'.2⟩

/-- What a fetch leaves of the state before it. -/
theorem fetches_cases {s u : State} {i : Instr} (h : s.fetches u i) :
    (s.hostPhase.pc < s.cfg.program.length ∧ u = s.hostPhase) ∨
    (s.cfg.program.length ≤ s.hostPhase.pc ∧ s.cfg.endOfProgram = .wrap ∧ u = s.hostPhase.tickBoundary) := by
  have := endOfProgram_eq_some.mp h.1
  simpa using this

section
variable {s u : State} {i : Instr} (h : s.fetches u i)
include h
theorem fetches_cfg : u.cfg = s.cfg := by rcases fetches_cases h with ⟨_, rfl⟩ | ⟨_, _, rfl⟩ <;> simp
theorem fetches_mode : u.mode = s.mode := by rcases fetches_cases h with ⟨_, rfl⟩ | ⟨_, _, rfl⟩ <;> simp
theorem fetches_depth : u.depth = s.depth := by rcases fetches_cases h with ⟨_, rfl⟩ | ⟨_, _, rfl⟩ <;> simp
theorem fetches_run : u.run = s.run := by rcases fetches_cases h with ⟨_, rfl⟩ | ⟨_, _, rfl⟩ <;> simp
theorem fetches_cycle : u.cycle = s.cycle := by rcases fetches_cases h with ⟨_, rfl⟩ | ⟨_, _, rfl⟩ <;> simp
theorem fetches_outport : u.outport = s.outport := by rcases fetches_cases h with ⟨_, rfl⟩ | ⟨_, _, rfl⟩ <;> simp
theorem fetches_outlog : u.outlog = s.outlog := by rcases fetches_cases h with ⟨_, rfl⟩ | ⟨_, _, rfl⟩ <;> simp
/-- A fetch is from within the program. -/
theorem fetches_pc_lt : u.pc < u.cfg.program.length := by
  obtain ⟨w, hw, _⟩ := h.2
  by_contra hlt
  simp [State.fetchWord, List.getElem?_eq_none (Nat.not_lt.mp hlt)] at hw
end

/-! ## The end of the cycle -/

/-- All that the end of a cycle can do: no deadline step; a deadline step without a miss; one with a miss. -/
theorem endOfCycle_cases (m : Mode) (i : Instr) (v : State) :
    (¬ (v.run = .running ∧ m = .reflex) ∧ endOfCycle m i v = { v with cycle := v.cycle + 1 }) ∨
    (v.run = .running ∧ m = .reflex ∧ anyMiss v.cfg.guardFns (armedUnit i) v.guards = false ∧
      endOfCycle m i v = { v with guards := countDeadlines v.cfg.guardFns (armedUnit i) v.guards, cycle := v.cycle + 1 }) ∨
    (v.run = .running ∧ m = .reflex ∧ anyMiss v.cfg.guardFns (armedUnit i) v.guards = true ∧
      endOfCycle m i v =
        { State.raise { v with guards := countDeadlines v.cfg.guardFns (armedUnit i) v.guards } .deadlineMiss v.pc with
          cycle := v.cycle + 1 }) := by
  unfold endOfCycle deadlineStep
  by_cases h : v.run = .running ∧ m = .reflex
  · right
    cases ha : anyMiss v.cfg.guardFns (armedUnit i) v.guards
    · left; exact ⟨h.1, h.2, rfl, by simp [h]⟩
    · right; exact ⟨h.1, h.2, rfl, by simp [h]⟩
  · left; exact ⟨h, by simp [h]⟩

section
variable (m : Mode) (i : Instr) (v : State)
@[simp] theorem endOfCycle_cfg : (endOfCycle m i v).cfg = v.cfg := by
  rcases endOfCycle_cases m i v with ⟨_, h⟩ | ⟨_, _, _, h⟩ | ⟨_, _, _, h⟩ <;> simp [h]
@[simp] theorem endOfCycle_regs : (endOfCycle m i v).regs = v.regs := by
  rcases endOfCycle_cases m i v with ⟨_, h⟩ | ⟨_, _, _, h⟩ | ⟨_, _, _, h⟩ <;> simp [h]
@[simp] theorem endOfCycle_cycle : (endOfCycle m i v).cycle = v.cycle + 1 := by
  rcases endOfCycle_cases m i v with ⟨_, h⟩ | ⟨_, _, _, h⟩ | ⟨_, _, _, h⟩ <;> simp [h]
@[simp] theorem endOfCycle_tick : (endOfCycle m i v).tick = v.tick := by
  rcases endOfCycle_cases m i v with ⟨_, h⟩ | ⟨_, _, _, h⟩ | ⟨_, _, _, h⟩ <;> simp [h]
@[simp] theorem endOfCycle_hist : (endOfCycle m i v).hist = v.hist := by
  rcases endOfCycle_cases m i v with ⟨_, h⟩ | ⟨_, _, _, h⟩ | ⟨_, _, _, h⟩ <;> simp [h]
@[simp] theorem endOfCycle_outport : (endOfCycle m i v).outport = v.outport := by
  rcases endOfCycle_cases m i v with ⟨_, h⟩ | ⟨_, _, _, h⟩ | ⟨_, _, _, h⟩ <;> simp [h]
@[simp] theorem endOfCycle_outlog : (endOfCycle m i v).outlog = v.outlog := by
  rcases endOfCycle_cases m i v with ⟨_, h⟩ | ⟨_, _, _, h⟩ | ⟨_, _, _, h⟩ <;> simp [h]
/-- A machine that the instruction stopped takes no deadline step. -/
theorem endOfCycle_of_stopped (h : v.run ≠ .running) : endOfCycle m i v = { v with cycle := v.cycle + 1 } := by
  simp [endOfCycle, h]
/-- The units after the end of a cycle: each one's deadline has counted, or not. -/
theorem endOfCycle_guards : (endOfCycle m i v).guards = v.guards ∨
    (endOfCycle m i v).guards = countDeadlines v.cfg.guardFns (armedUnit i) v.guards := by
  rcases endOfCycle_cases m i v with ⟨_, h⟩ | ⟨_, _, _, h⟩ | ⟨_, _, _, h⟩ <;> simp [h]
end

/-- One unit after the deadline step. -/
theorem countDeadlines_get (fns : GuardFunctions) (armed : Option Nat) (gs : GuardFile) (k : Fin 64) :
    (countDeadlines fns armed gs)[k] = if armed = some k.val then gs[k] else unitCountDeadline fns gs[k] := by
  simp [countDeadlines]

/-- Some deadline expires: said of one unit. -/
theorem anyMiss_eq_true (fns : GuardFunctions) (armed : Option Nat) (gs : GuardFile) :
    anyMiss fns armed gs = true ↔ ∃ k : Fin 64, armed ≠ some k.val ∧ unitMisses fns gs[k] = true := by
  simp [anyMiss]

/-- The deadline step keeps a unit within its ranges. -/
theorem unitCountDeadline_legal {m : GuardModel} {u : GuardUnit} (fns : GuardFunctions) (h : u.legal m = true) :
    (unitCountDeadline fns u).legal m = true := by
  unfold unitCountDeadline
  split
  · exact h
  · next r hr =>
    split
    · exact withDeadline_legal _ h rfl
    · split
      · exact withDeadline_legal _ h rfl
      · exact withDeadline_legal _ h (by simp only [deadlineLegal, decide_eq_true_eq]; omega)

end Sys2Proof.Machine
end

