-- ==== Sys2Proof/Machine/Assembly.lean ====
section
/-!
DEFINITION. The assembler text of an instruction, as `emit_asm()` writes the six shapes the source shows
(30_encoding.md R90) and as the spec writes the other 24 (R91, decision D35). No instruction and no step reads it.
-/

namespace Sys2Proof.Machine

/-- A register operand, `R<decimal>` (R90). -/
def asmReg (r : RegId) : String := "R" ++ toString r.toNat

/-- A guard operand, `G<decimal>` (R90). -/
def asmGuard (g : GuardId) : String := "G" ++ toString g.toNat

/-- A port operand, `P<decimal>` (R90). -/
def asmPort (p : PortId) : String := "P" ++ toString p.toNat

/-- A tag operand by its name, or its number where it has none (R91). -/
def asmTag (t : BitVec 4) : String :=
  match Tag.ofCode t with
  | some .bool => "Bool"
  | some .unsigned => "Unsigned"
  | some .signed => "Signed"
  | some .uninitialized => "Uninitialized"
  | none => toString t.toNat

/-- A mode operand by its name, or its number where it has none (R91). -/
def asmMode (m : Nat) : String :=
  match Mode.ofNumber m with
  | some .reflex => "Reflex"
  | some .host => "Host"
  | none => toString m

/-- A binary operation by its mnemonic, or its number where it has none (R81, R91). -/
def asmOp (op : BitVec 4) : String :=
  match AluOp.ofCode op with
  | some .add => "ADD"
  | some .sub => "SUB"
  | some .mul => "MUL"
  | some .and => "AND"
  | some .or => "OR"
  | some .xor => "XOR"
  | some .shl => "SHL"
  | some .shr => "SHR"
  | some .eq => "EQ"
  | some .ne => "NE"
  | some .lt => "LT"
  | some .le => "LE"
  | some .gt => "GT"
  | some .ge => "GE"
  | none => toString op.toNat

/-- A unary operation by its mnemonic, or its number where it has none (R82, R91). -/
def asmUnaryOp (op : BitVec 2) : String :=
  match AluUnaryOp.ofCode op with
  | some .not => "NOT"
  | some .neg => "NEG"
  | none => toString op.toNat

/-- The mnemonic and the operands, in Fields-column order (R90, R91). -/
def asmParts (i : Instr) : String × List String :=
  match i with
  | .loadInput dst port => ("LOAD_INPUT", [asmReg dst, asmPort port])
  | .storeOutput src port => ("STORE_OUTPUT", [asmReg src, asmPort port])
  | .mov dst src => ("MOV", [asmReg dst, asmReg src])
  | .loadImm dst value width => ("LOAD_IMM", [asmReg dst, toString value.toNat, toString width.toNat])
  | .alu op dst a b => ("ALU", [asmOp op, asmReg dst, asmReg a, asmReg b])
  | .aluImm op dst a imm => ("ALU_IMM", [asmOp op, asmReg dst, asmReg a, toString imm.toNat])
  | .aluUnary op dst src => ("ALU_UNARY", [asmUnaryOp op, asmReg dst, asmReg src])
  | .srInit g length cond => ("SR_INIT", [asmGuard g, toString length.toNat, asmReg cond])
  | .srTick g => ("SR_TICK", [asmGuard g])
  | .srQuery dst g => ("SR_QUERY", [asmReg dst, asmGuard g])
  | .ctrInit g target cond => ("CTR_INIT", [asmGuard g, toString target.toNat, asmReg cond])
  | .ctrTick g => ("CTR_TICK", [asmGuard g])
  | .ctrQuery dst g => ("CTR_QUERY", [asmReg dst, asmGuard g])
  | .guardAnd dst a b => ("GUARD_AND", [asmReg dst, asmGuard a, asmGuard b])
  | .guardOr dst a b => ("GUARD_OR", [asmReg dst, asmGuard a, asmGuard b])
  | .reflexIf g dst src => ("REFLEX_IF", [asmGuard g, asmReg dst, asmReg src])
  | .prev dst signal delay => ("PREV", [asmReg dst, asmReg signal, toString delay.toNat])
  | .emergencyStop => ("EMERGENCY_STOP", [])
  | .assertAlways cond pid => ("ASSERT_ALWAYS", [asmReg cond, toString pid.toNat])
  | .assertNever cond pid => ("ASSERT_NEVER", [asmReg cond, toString pid.toNat])
  | .trap code => ("TRAP", [toString code.toNat])
  | .trapIf cond code => ("TRAP_IF", [asmReg cond, toString code.toNat])
  | .halt code => ("HALT", [toString code.toNat])
  | .modeSwitch target => ("MODE_SWITCH", [asmMode target.toNat])
  | .tagLoad dst t => ("TAG_LOAD", [asmReg dst, asmTag t])
  | .tagCheck src t => ("TAG_CHECK", [asmReg src, asmTag t])
  | .tagRead dst src => ("TAG_READ", [asmReg dst, asmReg src])
  | .nop => ("NOP", [])
  | .fence => ("FENCE", [])
  | .deadlineSet g cycles => ("DEADLINE_SET", [asmGuard g, toString cycles.toNat])

/-- The text of an instruction: the mnemonic, a space, the operands separated by ", " (R90). -/
def asmText (i : Instr) : String :=
  match asmParts i with
  | (name, []) => name
  | (name, ops) => name ++ " " ++ String.intercalate ", " ops

/-- One line of a listing: the index, which is the pc when the instruction executes, and the instruction (R90). -/
def asmLine (index : Nat) (i : Instr) : String := toString index ++ ": " ++ asmText i

end Sys2Proof.Machine
end

