-- ==== Sys2Proof/Tests/Slice0.lean ====
section
/-!
SUPPORT. The model's own tests, named theorems on small states. Expected results come from the spec: 95_test_vectors.md
(section 2: E1 to E3; section 3: the vectors of each family) or the example of the instruction's rule, as each says. The last
part shows, for every obligation that has hypotheses, a concrete state and operands that meet them (`witness_…`).
-/

namespace Sys2Proof.Tests

-- One theorem after another: the kernel evaluations below would otherwise wait for one another, each in a thread of its own.
set_option Elab.async false

open Sys2Proof Sys2Proof.Machine

/-! ## The well-formedness checks refuse an ill-formed term each (30_encoding.md R83) -/

theorem test_illegal_aluOp : (Instr.alu 14 0 0 0).illegal = some .reservedAluOp := by decide
theorem test_illegal_aluImmOp : (Instr.aluImm 15 0 0 0).illegal = some .reservedAluOp := by decide
theorem test_illegal_aluUnaryOp : (Instr.aluUnary 2 0 0).illegal = some .reservedAluOp := by decide
theorem test_illegal_tagLoad : (Instr.tagLoad 0 3).illegal = some .reservedTag := by decide
theorem test_illegal_tagCheck : (Instr.tagCheck 0 14).illegal = some .reservedTag := by decide
theorem test_illegal_guards :
    [Instr.srInit 64 1 0, .srTick 64, .srQuery 0 64, .ctrInit 64 1 0, .ctrTick 64, .ctrQuery 0 64, .guardAnd 0 64 0,
      .guardAnd 0 0 64, .guardOr 0 64 0, .guardOr 0 0 64, .reflexIf 64 0 0, .deadlineSet 255 1].all
      (fun i => i.illegal == some .guardIndexOutOfBounds) = true := by decide
theorem test_illegal_trap : (Instr.trap 0).illegal = some .badExceptionCode ∧ (Instr.trap 7).illegal = some .badExceptionCode := by
  decide
theorem test_illegal_trapIf : (Instr.trapIf 0 0).illegal = some .badExceptionCode := by decide
theorem test_illegal_mode : (Instr.modeSwitch 2).illegal = some .badMode := by decide
theorem test_wellFormed_bounds :
    [Instr.aluImm 13 255 255 63, .aluUnary 1 0 0, .tagLoad 0 15, .srTick 63, .trap 6, .trapIf 0 1, .modeSwitch 1].all
      Instr.wellFormed = true := by decide

/-! ## Decoding: the words of 95_test_vectors.md E1, every constructor -/

theorem test_decode_loadInput : decode 0x03FC003F = .ok (.loadInput 255 63) := by decide
theorem test_decode_storeOutput : decode 0x0401FC3F = .ok (.storeOutput 127 63) := by decide
theorem test_decode_mov : decode 0x0B219000 = .ok (.mov 200 100) := by decide
theorem test_decode_loadImm : decode 0x0F002007 = .ok (.loadImm 192 7 8) := by decide
/-- The base word of E1 with dst, a and b in place; the operation number is the open parameter's (log entry 8). -/
theorem test_decode_alu (h : Config.aluOpOf 0x13000004 = 0) : decode 0x13000004 = .ok (.alu 0 192 0 1) := by
  have hf : decodeForm 0x13000004 = .ok (.alu (Config.aluOpOf 0x13000004) 192 0 1) := by rfl
  rw [h] at hf
  simp only [decode, hf]
  decide
theorem test_decode_aluImm : decode 0x17000332 = .ok (.aluImm 12 192 0 50) := by decide
theorem test_decode_aluUnary : decode 0x1B070001 = .ok (.aluUnary 1 193 192) := by decide
theorem test_decode_srInit : decode 0x1C00000C = .ok (.srInit 0 3 0) := by decide
theorem test_decode_srInit_bounds : decode 0x1CFFFFFC = .ok (.srInit 63 255 255) := by decide
theorem test_decode_srTick : decode 0x20FC0000 = .ok (.srTick 63) := by decide
theorem test_decode_srQuery : decode 0x24FE0400 = .ok (.srQuery 129 63) := by decide
theorem test_decode_ctrInit : decode 0x28060320 = .ok (.ctrInit 1 200 128) := by decide
theorem test_decode_ctrTick : decode 0x2C040000 = .ok (.ctrTick 1) := by decide
theorem test_decode_ctrQuery : decode 0x30041800 = .ok (.ctrQuery 6 1) := by decide
theorem test_decode_guardAnd : decode 0x34020404 = .ok (.guardAnd 129 0 1) := by decide
theorem test_decode_guardOr : decode 0x38FFFCF8 = .ok (.guardOr 255 63 62) := by decide
theorem test_decode_reflexIf : decode 0x3C010300 = .ok (.reflexIf 0 64 192) := by decide
theorem test_decode_prev : decode 0x42030404 = .ok (.prev 193 128 1) := by decide
theorem test_decode_emergencyStop : decode 0x44000000 = .ok .emergencyStop := by decide
theorem test_decode_assertAlways : decode 0x4B000004 = .ok (.assertAlways 192 4) := by decide
theorem test_decode_assertNever : decode 0x4FFFFFFF = .ok (.assertNever 255 262143) := by decide
theorem test_decode_trap : decode 0x50000006 = .ok (.trap 6) := by decide
theorem test_decode_trapIf : decode 0x57000001 = .ok (.trapIf 192 1) := by decide
theorem test_decode_halt : decode 0x5BFFFFFF = .ok (.halt 67108863) := by decide
theorem test_decode_modeSwitch : decode 0x5C000001 = .ok (.modeSwitch 1) := by decide
theorem test_decode_tagLoad : decode 0x630C0800 = .ok (.tagLoad 195 2) := by decide
theorem test_decode_tagCheck : decode 0x6403FC3C = .ok (.tagCheck 255 15) := by decide
theorem test_decode_tagRead : decode 0x6B040400 = .ok (.tagRead 193 1) := by decide
theorem test_decode_nop : decode 0x6C000000 = .ok .nop := by decide
theorem test_decode_fence : decode 0x70000000 = .ok .fence := by decide
theorem test_decode_deadlineSet : decode 0x74000064 = .ok (.deadlineSet 0 100) := by decide

/-- 95_test_vectors.md E2: the words the decoder refuses, with the reason each row gives. -/
theorem test_decode_refused :
    ([(0x78000000, .unassignedOpcode), (0xFFFFFFFF, .unassignedOpcode), (0x6C000001, .nonZeroUnusedField),
      (0x20000001, .nonZeroUnusedField), (0x08000004, .nonZeroUnusedField), (0x00000400, .nonZeroUnusedField),
      (0x18000002, .reservedAluOp), (0x14000380, .reservedAluOp), (0x60000C00, .reservedTag),
      (0x60004000, .nonZeroUnusedField), (0x64000020, .reservedTag), (0x5C000002, .badMode),
      (0x50000000, .badExceptionCode), (0x50000007, .badExceptionCode), (0x54000000, .badExceptionCode),
      (0x21000000, .guardIndexOutOfBounds), (0x75FC0001, .guardIndexOutOfBounds)] : List (Word × Illegal)).all
      (fun p => match decode p.1 with | .error e => e == p.2 | .ok _ => false) = true := by decide

theorem test_encode_reflexIf : encode (.reflexIf 0 64 192) = some 0x3C010300 := by decide
theorem test_encode_tagCheck : encode (.tagCheck 0 1) = some 0x64000004 := by decide
theorem test_decodeTableWord : decodeTableWord 32 0x6C000000 = some .nop := by decide

/-! ## ALU_FN (95_test_vectors.md AL1, AL2) -/

/-- A word with provenance Literal. -/
def lit (value : BitVec 64) (tag : Tag) (w : Nat) : TaggedWord := { value := value, tag := tag, w := w, prov := .literal }

/-- The payload of a result. -/
def out (v : TaggedWord) : Nat × Tag × Nat := (v.value.toNat, v.tag, v.w)

theorem test_alu_add : out (aluFn .add (lit 127 .signed 8) (lit 1 .unsigned 8)) = (128, .signed, 8) := by decide +kernel
theorem test_alu_add_narrow : out (aluFn .add (lit 9 .unsigned 4) (lit 31 .unsigned 8)) = (8, .unsigned, 4) := by
  decide +kernel
theorem test_alu_sub : out (aluFn .sub (lit 3 .unsigned 8) (lit 5 .unsigned 8)) = (254, .unsigned, 8) := by decide +kernel
theorem test_alu_mul : out (aluFn .mul (lit 253 .signed 8) (lit 5 .unsigned 8)) = (241, .signed, 8) := by decide +kernel
theorem test_alu_and : out (aluFn .and (lit 1 .bool 1) (lit 2 .unsigned 8)) = (0, .bool, 1) := by decide +kernel
theorem test_alu_or : out (aluFn .or (lit 240 .unsigned 8) (lit 15 .unsigned 8)) = (255, .unsigned, 8) := by decide +kernel
theorem test_alu_xor : out (aluFn .xor (lit 15 .unsigned 8) (lit 15 .signed 4)) = (240, .unsigned, 8) := by decide +kernel
theorem test_alu_shl : out (aluFn .shl (lit 1 .unsigned 8) (lit 255 .signed 8)) = (0, .unsigned, 8) := by decide +kernel
theorem test_alu_shr : out (aluFn .shr (lit 240 .signed 8) (lit 2 .unsigned 8)) = (60, .signed, 8) := by decide +kernel
theorem test_alu_eq : out (aluFn .eq (lit 255 .unsigned 8) (lit 255 .signed 8)) = (0, .bool, 1) := by decide +kernel
theorem test_alu_ne : out (aluFn .ne (lit 255 .signed 8) (lit 65535 .signed 16)) = (0, .bool, 1) := by decide +kernel
theorem test_alu_lt : out (aluFn .lt (lit 255 .signed 8) (lit 0 .unsigned 8)) = (1, .bool, 1) := by decide +kernel
theorem test_alu_le : out (aluFn .le (lit 0 .signed 8) (lit 255 .signed 8)) = (0, .bool, 1) := by decide +kernel
theorem test_alu_gt :
    out (aluFn .gt (lit 9223372036854775808 .unsigned 64) (lit 9223372036854775808 .signed 64)) = (1, .bool, 1) := by
  decide +kernel
theorem test_alu_ge : out (aluFn .ge (lit 250 .signed 8) (lit 0 .unsigned 64)) = (0, .bool, 1) := by decide +kernel
theorem test_alu_not : out (aluUnaryFn .not (lit 5 .unsigned 3)) = (2, .unsigned, 3) := by decide +kernel
theorem test_alu_neg : out (aluUnaryFn .neg (lit 128 .signed 8)) = (128, .signed, 8) := by decide +kernel

/-! ## One instruction each, on a small state -/

/-- Every register holds {5, Unsigned{8}, Literal} but R200, which is Uninitialized; G1 is a shift register with all samples
true, G2 a counter one sample from activation, G3 a counter that is inactive; reflex mode. -/
def sample : State :=
  { State.resetWith { Params.default with program := [0x6C000000, 0x6C000000] } with
    regs := (Vector.replicate 256 (lit 5 .unsigned 8)).set 200 (lit 0 .uninitialized 8)
    guards := (((Vector.replicate 64 resetUnit).set 1 (.sr 0 2 [true, true] none)).set 2 (.ctr 0 2 1 none)).set 3
      (.ctr 0 2 2 (some 4)) }

/-- The state after an outcome, if it is a next state. -/
def after (r : Result) : Option State :=
  match r with
  | .next t => some t
  | .fault _ => none
  | .refused _ => none

/-- What a register holds after an instruction executed in `sample`. -/
def regAfter (i : Instr) (r : RegId) : Option (Nat × Tag × Nat × Prov) :=
  (after (exec i sample)).map fun t => ((t.reg r).value.toNat, (t.reg r).tag, (t.reg r).w, (t.reg r).prov)

/-- The control state after an instruction executed in a state. -/
def control (i : Instr) (s : State) : Option (Nat × Mode × Nat × Option ExcCode × RunState) :=
  (after (exec i s)).map fun t => (t.pc, t.mode, t.depth, t.exc, t.run)

/-- R100's example: the word is typed by the port and says where it came from. -/
theorem test_loadInput :
    (after (exec (.loadInput 0 3) sample)).map (fun t => ((t.reg 0).tag, (t.reg 0).w, (t.reg 0).prov)) =
      some (.unsigned, 64, .input 3) := by decide +kernel
/-- RG5, in a cycle of its own. -/
theorem test_storeOutput :
    (after (exec (.storeOutput 128 3) sample)).map (fun t => (t.outlog, t.port 3)) =
      some ([{ cycle := 0, port := 3, word := lit 5 .unsigned 8 }], some (lit 5 .unsigned 8)) := by decide +kernel
theorem test_storeOutput_uninit : -- RG3
    control (.storeOutput 200 0) sample = some (0, .reflex, 0, some .registerUninitialized,
      .emergencyStopped (.unhandled .registerUninitialized)) := by decide +kernel
theorem test_mov : regAfter (.mov 200 128) 200 = some (5, .unsigned, 8, .literal) := by decide +kernel -- R102
theorem test_loadImm : regAfter (.loadImm 1 300 8) 1 = some (44, .unsigned, 8, .literal) := by decide +kernel -- RG5
theorem test_alu : regAfter (.alu 0 0 0 0) 0 = some (10, .unsigned, 8, .computed) := by decide +kernel -- AL3b, with 5
theorem test_aluImm : regAfter (.aluImm 1 1 0 7) 1 = some (254, .unsigned, 8, .computed) := by decide +kernel -- AL3c
theorem test_aluImm_lt : regAfter (.aluImm 10 2 0 7) 2 = some (1, .bool, 1, .computed) := by decide +kernel -- AL3c
theorem test_aluUnary : regAfter (.aluUnary 1 193 192) 193 = some (251, .unsigned, 8, .computed) := by decide +kernel -- R112
theorem test_srInit : -- R142
    (after (exec (.srInit 0 3 200) sample)).map (fun t => t.unit? 0) = some (some (.sr 200 3 [false, false, false] none)) := by
  decide +kernel
theorem test_srTick : -- TM1, row 8: a false sample enters at the front
    (after (exec (.srTick 1) (sample.setReg 0 (lit 0 .unsigned 1)))).map (fun t => t.unit? 1) =
      some (some (.sr 0 2 [false, true] none)) := by decide +kernel
theorem test_srQuery : regAfter (.srQuery 0 1) 0 = some (1, .bool, 1, .computed) := by decide +kernel -- R144
theorem test_ctrInit : -- R145, on a unit whose deadline is armed
    (after (exec (.ctrInit 3 200 128) sample)).map (fun t => t.unit? 3) = some (some (.ctr 128 200 200 (some 4))) := by
  decide +kernel
theorem test_ctrTick : -- R146
    (after (exec (.ctrTick 2) sample)).map (fun t => t.unit? 2) = some (some (.ctr 0 2 0 none)) := by decide +kernel
theorem test_ctrTick_false : -- TM1, row 3: a false sample reloads
    (after (exec (.ctrTick 2) (sample.setReg 0 (lit 0 .unsigned 1)))).map (fun t => t.unit? 2) =
      some (some (.ctr 0 2 2 none)) := by decide +kernel
theorem test_ctrQuery : regAfter (.ctrQuery 6 2) 6 = some (0, .bool, 1, .computed) := by decide +kernel -- R147
theorem test_guardAnd : regAfter (.guardAnd 130 1 2) 130 = some (0, .bool, 1, .computed) := by decide +kernel -- TM3g
theorem test_guardOr : regAfter (.guardOr 131 1 2) 131 = some (1, .bool, 1, .computed) := by decide +kernel -- TM3g
theorem test_reflexIf : regAfter (.reflexIf 1 200 192) 200 = some (5, .unsigned, 8, .literal) := by decide +kernel -- R155
theorem test_reflexIf_inactive : regAfter (.reflexIf 2 64 200) 64 = some (5, .unsigned, 8, .literal) := by
  decide +kernel -- TM3h
theorem test_prev : -- TM3m
    (after (exec (.prev 194 128 2) { sample with
      tick := 2, hist := [Vector.replicate 256 (lit 7 .unsigned 8), Vector.replicate 256 (lit 3 .unsigned 8)] })).map
      (fun t => (t.reg 194).value.toNat) = some 3 := by decide +kernel
theorem test_emergencyStop : -- SF1
    control .emergencyStop sample = some (0, .reflex, 0, none, .emergencyStopped .instruction) := by decide +kernel
theorem test_assertAlways : -- SF2
    control (.assertAlways 0 4) (sample.setReg 0 (lit 0 .unsigned 1)) =
      some (0, .reflex, 0, some .assertionViolation, .emergencyStopped (.unhandled .assertionViolation)) := by decide +kernel
theorem test_assertNever : -- SF6
    control (.assertNever 0 4) sample =
      some (0, .reflex, 0, some .assertionViolation, .emergencyStopped (.unhandled .assertionViolation)) := by decide +kernel
/-- EX1: the handler table's first entry for code 3 is a plain transfer to index 1. -/
theorem test_trap : control (.trap 3) { sample with cfg := { sample.cfg with handlers := [⟨3, 1, none⟩] } } =
    some (1, .reflex, 1, some .tagMismatch, .running) := by decide +kernel
theorem test_trapIf : -- EX6
    control (.trapIf 192 1) sample =
      some (0, .reflex, 0, some .divisionByZero, .emergencyStopped (.unhandled .divisionByZero)) := by decide +kernel
theorem test_halt : control (.halt 67108863) sample = some (0, .reflex, 0, none, .halted 67108863) := by
  decide +kernel -- EX11
theorem test_modeSwitch : control (.modeSwitch 1) sample = some (1, .host, 0, none, .running) := by decide +kernel -- R190
theorem test_tagLoad : regAfter (.tagLoad 0 2) 0 = some (5, .signed, 8, .literal) := by decide +kernel -- R200
theorem test_tagCheck : -- TG1: TagMismatch and not RegisterUninitialized
    control (.tagCheck 200 1) sample =
      some (0, .reflex, 0, some .tagMismatch, .emergencyStopped (.unhandled .tagMismatch)) := by decide +kernel
theorem test_tagRead : regAfter (.tagRead 193 200) 193 = some (15, .unsigned, 4, .computed) := by decide +kernel -- TG1
theorem test_nop : control .nop sample = some (1, .reflex, 0, none, .running) := by decide +kernel -- CT1
theorem test_fence : control .fence sample = some (1, .reflex, 0, none, .running) := by decide +kernel -- CT1
theorem test_deadlineSet : -- R210
    (after (exec (.deadlineSet 3 3) sample)).map (fun t => t.unit? 3) = some (some (.ctr 0 2 2 (some 3))) := by decide +kernel
/-- DL6: IgnoreAndContinue after a DeadlineMiss leaves the pc where the instruction put it. -/
theorem test_deadlineMiss :
    let s := { sample with
      pc := 6, guards := sample.guards.set 3 (.ctr 0 2 2 (some 1)),
      cfg := { sample.cfg with handlers := [⟨4, 0, some .ignoreAndContinue⟩] } }
    ((endOfCycle .reflex .nop s).pc, (endOfCycle .reflex .nop s).exc, (endOfCycle .reflex .nop s).unit? 3) =
      (6, none, some (.ctr 0 2 2 none)) := by decide +kernel

/-- R142 with R211, on a unit where the host armed a deadline while it was Unconfigured (R252): SR_INIT keeps the deadline,
which then expires. -/
theorem test_deadline_of_unconfigured :
    (after (exec (.srInit 5 2 0) { sample with guards := sample.guards.set 5 (.unconfigured 9 0 (some 1)) })).map
        (fun t => (t.unit? 5, (endOfCycle .reflex (.srInit 5 2 0) t).exc)) =
      some (some (.sr 0 2 [false, false] (some 1)), some .deadlineMiss) := by decide +kernel

/-- Another ALU_FN than the laws: the instruction runs on, its result is the parameter's. -/
theorem test_alu_other :
    let s := { sample with cfg := { sample.cfg with aluModel := .other 7 } }
    ∃ t, exec (.alu 0 1 0 0) s = .next t ∧ t.pc = 1 ∧ (t.reg 1).prov = .computed := ⟨_, rfl, rfl, by decide +kernel⟩

/-! ## The program file (20_memory.md R47, D2: either order) -/

theorem test_program_file_little :
    wordsOfBytes .little [0x78, 0x56, 0x34, 0x12, 0x00, 0x00, 0x00, 0x6C] = some [0x12345678, 0x6C000000] := by decide
theorem test_program_file_big : wordsOfBytes .big (bytesOfWord .big 0x12345678) = some [0x12345678] := by decide

/-! ## One step -/

theorem sample_refusal : sample.cfg.refusal = none := by decide +kernel

/-- A step of a machine in reflex mode, from the word at the pc. -/
theorem step_of {s t : State} {i : Instr} (w : Word) (hr : s.run = .running) (hm : s.mode = .reflex)
    (hc : s.cfg.refusal = none) (hw : s.cfg.program[s.pc]? = some w) (hd : decode w = .ok i) (he : exec i s = .next t) :
    step s = .next (endOfCycle .reflex i t) := by
  have hlt : s.pc < s.cfg.program.length := by
    by_contra hlt
    simp [List.getElem?_eq_none (Nat.not_lt.mp hlt)] at hw
  refine step_eq_next.mpr ⟨hr, hc, s, i, t, ⟨?_, w, hw, hd⟩, he, by rw [hm]⟩
  rw [hostPhase_of_reflex hm]
  exact endOfProgram_eq_some.mpr (.inl ⟨hlt, rfl⟩)

/-- The sample state with another program. -/
def withProgram (program : List Word) : State := { sample with cfg := { sample.cfg with program := program } }

/-- CT1: NOP at index 0 of the sample's program. -/
theorem test_step_nop : ∃ t, step sample = .next t ∧ t.pc = 1 ∧ t.cycle = 1 :=
  ⟨_, step_of (i := .nop) 0x6C000000 rfl rfl sample_refusal rfl (by decide) rfl, by decide +kernel, by decide +kernel⟩

/-- EX11. -/
theorem test_step_halt : ∃ t, step (withProgram [0x5BFFFFFF]) = .next t ∧ t.run = .halted 67108863 :=
  ⟨_, step_of (i := .halt 67108863) 0x5BFFFFFF rfl rfl (by decide +kernel) rfl (by decide) rfl, by decide +kernel⟩

/-- R190's example. -/
theorem test_step_modeSwitch : ∃ t, step (withProgram [0x5C000001]) = .next t ∧ t.mode = .host :=
  ⟨_, step_of (i := .modeSwitch 1) 0x5C000001 rfl rfl (by decide +kernel) rfl (by decide) rfl, by decide +kernel⟩

/-! ## Witnesses: the hypotheses of each obligation can be met -/

theorem witness_DecodeOfEncode :
    (Instr.deadlineSet 63 262143).wellFormed = true ∧ (Instr.deadlineSet 63 262143).opcode ≠ 4 ∧
      encode (.deadlineSet 63 262143) = some 0x74FFFFFF := by decide
theorem witness_EncodeOfDecode : decode 0x74FFFFFF = .ok (.deadlineSet 63 262143) ∧ (Instr.deadlineSet 63 262143).opcode ≠ 4 := by
  decide
theorem witness_TopSixBitsSelectTheInstruction : decode 0x00000000 = .ok (.loadInput 0 0) := by decide
theorem witness_AcceptedWordsObeyTheOpcodeTable :
    decode 0x74FFFFFF = .ok (.deadlineSet 63 262143) ∧ 30 ≤ ((0x78000000 : Word) >>> 26).toNat ∧
      30 ≤ ((0xFFFFFFFF : Word) >>> 26).toNat := by decide
theorem witness_StepRunsTheDecodedInstruction :
    sample.run = .running ∧ sample.mode = .reflex ∧ sample.cfg.refusal = none ∧ sample.fetches sample .nop ∧
      sample.cfg.program[sample.pc]? = some 0x6C000000 ∧ decode 0x6C000000 = .ok .nop :=
  ⟨rfl, rfl, sample_refusal, ⟨by rw [hostPhase_of_reflex rfl]; exact endOfProgram_eq_some.mpr (.inl ⟨by decide, rfl⟩),
    _, rfl, by decide⟩, rfl, by decide⟩
theorem witness_StepRunsTheDecodedInstruction_illegal :
    (withProgram [0x78000000]).cfg.refusal = none ∧
      (withProgram [0x78000000]).cfg.program[(withProgram [0x78000000]).pc]? = some 0x78000000 ∧
      decode 0x78000000 = .error .unassignedOpcode := ⟨by decide +kernel, rfl, by decide⟩
theorem witness_StoppedMachineNeverSteps : ({ sample with run := .halted 0 } : State).run ≠ .running := by decide
theorem witness_IllFormedParametersRefused_program :
    (withProgram []).cfg.program = [] ∧ 4096 < (withProgram (List.replicate 4097 0)).cfg.program.length := by
  refine ⟨rfl, ?_⟩
  rw [show (withProgram (List.replicate 4097 0)).cfg.program = List.replicate 4097 0 from rfl, List.length_replicate]
  omega
/-- Each way a table can be ill-formed: 17 entries, code 0, code 7, an address equal to the program's length. -/
theorem witness_IllFormedParametersRefused_table :
    sample.cfg.program ≠ [] ∧ sample.cfg.program.length ≤ 4096 ∧
      16 < (List.replicate 17 (⟨1, 0, none⟩ : HandlerEntry)).length ∧
      (⟨0, 0, none⟩ : HandlerEntry).code = 0 ∧ 6 < (⟨7, 0, none⟩ : HandlerEntry).code ∧
      sample.cfg.program.length ≤ (⟨1, 2, none⟩ : HandlerEntry).address := by decide
theorem witness_IllFormedParametersRefused_legal :
    let handlers := List.replicate 16 (⟨6, 1, none⟩ : HandlerEntry)
    handlers.length ≤ 16 ∧ ∀ e ∈ handlers, 1 ≤ e.code ∧ e.code ≤ 6 ∧ e.address < sample.cfg.program.length := by decide
theorem witness_EndOfProgramFaultsOrWraps_fault :
    ({ sample with pc := 2 } : State).run = .running ∧ ({ sample with pc := 2 } : State).mode = .reflex ∧
      sample.cfg.program.length ≤ ({ sample with pc := 2 } : State).pc ∧ sample.cfg.endOfProgram = .fault := by decide
theorem witness_EndOfProgramFaultsOrWraps_wrap :
    ({ sample.cfg with endOfProgram := .wrap } : Params).refusal = none ∧
      ({ sample.cfg with endOfProgram := .wrap } : Params).endOfProgram = .wrap := by decide +kernel
theorem witness_HostActsOnlyInHostMode : sample.mode = .reflex := rfl
theorem witness_ResetSatisfiesTheInvariant :
    ∀ e ∈ [((0 : PortId), (⟨.bool, 1⟩ : PortType)), (1, ⟨.signed, 64⟩), (2, ⟨.unsigned, 1⟩)], e.2.legal = true := by decide
theorem witness_StepKeepsTheInvariant : sample.Inv ∧ ∃ t, step sample = .next t := by
  refine ⟨⟨by decide, ?_, by simp [sample, State.resetWith], rfl, ?_, by decide, by decide, ?_, by simp [sample, State.resetWith],
    by simp [sample, State.resetWith], by simp [sample, State.resetWith], by simp [sample, State.resetWith],
    by simp [sample, State.resetWith, RunState.cause], by simp [sample, State.resetWith]⟩, test_step_nop.imp fun _ h => h.1⟩
  · decide +kernel
  · decide +kernel
  · intro p; simp [sample, State.port, State.resetWith, lastWord]
theorem witness_StepKeepsTheProgramAndCountsOneCycle : ∃ t, step sample = .next t := test_step_nop.imp fun _ h => h.1
theorem witness_DepthNeverFallsAndStaysBounded : (∃ t, step sample = .next t) ∧ sample.depth ≤ 8 :=
  ⟨test_step_nop.imp fun _ h => h.1, by decide⟩
theorem witness_PortEventsComeOnlyFromStoreOutput : ∃ t, step (withProgram [0x04010000]) = .next t ∧ t.outlog ≠ [] :=
  ⟨_, step_of (i := .storeOutput 64 0) 0x04010000 rfl rfl (by decide +kernel) rfl (by decide) rfl, List.cons_ne_nil _ _⟩
theorem witness_HistoryGrowsOnlyAtATickBoundary : ∃ t, step sample = .next t := test_step_nop.imp fun _ h => h.1
theorem witness_ModeChangesOnlyByModeSwitchOrTrapToHost :
    ∃ t, step (withProgram [0x5C000001]) = .next t ∧ t.mode ≠ (withProgram [0x5C000001]).mode :=
  test_step_modeSwitch.imp fun t h => ⟨h.1, by rw [h.2]; decide⟩
theorem witness_OnlyTheListedInstructionsWrite :
    (∃ t, exec (.mov 200 0) sample = .next t ∧ t.regs ≠ sample.regs) ∧
      (∃ t, exec (.ctrTick 2) sample = .next t ∧ t.guards ≠ sample.guards) ∧
      (∃ t, exec (.storeOutput 0 0) sample = .next t ∧ t.outlog ≠ sample.outlog) :=
  ⟨⟨_, rfl, fun h => absurd (congrArg (fun v : RegFile => v[200].tag) h) (by decide +kernel)⟩,
    ⟨_, rfl, fun h => absurd (congrArg (fun v : GuardFile => v[2].active lawGuards) h) (by decide +kernel)⟩,
    ⟨_, rfl, List.cons_ne_nil _ _⟩⟩
theorem witness_PcAdvancesUnlessStoppedOrTransferred : sample.run = .running ∧ ∃ t, exec .nop sample = .next t :=
  ⟨rfl, _, rfl⟩
theorem witness_MachineStopsOnlyInTheListedWays : ∃ t, step (withProgram [0x5BFFFFFF]) = .next t ∧ t.run ≠ .running :=
  test_step_halt.imp fun t h => ⟨h.1, by rw [h.2]; decide⟩
theorem witness_ExceptionAtMaximumDepthStops : ({ sample with depth := 8 } : State).depth = 8 := rfl
/-- A second entry for the code, an entry for another code before it, and a table with no entry for it, in either mode. -/
theorem witness_FirstMatchingEntryDecides :
    sample.depth ≠ 8 ∧
      (∀ b ∈ [(⟨1, 0, none⟩ : HandlerEntry)], b.code ≠ ExcCode.userTrap.number) ∧
      (⟨6, 1, none⟩ : HandlerEntry).code = ExcCode.userTrap.number ∧ (⟨6, 1, none⟩ : HandlerEntry).action = none ∧
      [(⟨1, 0, none⟩ : HandlerEntry), ⟨6, 1, none⟩, ⟨6, 0, some .halt⟩] = [⟨1, 0, none⟩] ++ ⟨6, 1, none⟩ :: [⟨6, 0, some .halt⟩] ∧
      (∀ b ∈ sample.cfg.handlers, b.code ≠ ExcCode.userTrap.number) ∧ sample.mode = .reflex ∧
      ({ sample with mode := .host } : State).mode = .host := by decide
theorem witness_UnhandledInReflexModeStops :
    sample.depth ≠ 8 ∧ sample.mode = .reflex ∧ ∀ e ∈ sample.cfg.handlers, e.code ≠ ExcCode.userTrap.number := by decide
theorem witness_ExceptionEntryByAction :
    ({ sample with depth := 7 } : State).depth ≠ 8 ∧
      ([none, some .emergencyStop, some .ignoreAndContinue, some .trapToHost, some .halt] : List (Option HandlerAction)).all
        (fun a => ({ sample.cfg with handlers := [⟨3, 1, a⟩] } : Params).handlerFor .tagMismatch == some ⟨3, 1, a⟩) = true ∧
      sample.cfg.handlerFor .tagMismatch = none ∧ ({ sample with mode := .host } : State).mode = .host := by decide
theorem witness_ExceptionsArePrecise : ∃ t, exec (.mov 0 200) sample = .next t := ⟨_, rfl⟩
/-- Every instruction that reads a register reads R200, which is Uninitialized in the state shown. -/
theorem witness_UninitializedReadRaises :
    let s : State := { sample with
      guards := (sample.guards.set 1 (.sr 200 1 [true] none)).set 2 (.ctr 200 2 1 none) }
    (s.reg 200).tag = .uninitialized ∧
      [Instr.storeOutput 200 63, .mov 0 200, .alu 13 0 200 1, .alu 0 0 1 200, .aluImm 13 0 200 63, .aluUnary 1 0 200, .srTick 1,
        .ctrTick 2, .reflexIf 1 0 200, .prev 0 200 0, .assertAlways 200 0, .assertNever 200 0, .trapIf 200 6].all
        (fun i => (checkedReads i s).contains 200) = true := by decide +kernel
theorem witness_WordsReadAsTheirTagsSay :
    (lit 1 .bool 1).legal = true ∧ (lit 1 .unsigned 1).legal = true ∧ (lit 255 .signed 64).legal = true := by decide
theorem witness_AluFunctionFollowsTheLaws : Params.default.aluModel = .laws := rfl
theorem witness_GuardModelFollowsTheLaws : Params.default.guardModel = .laws := rfl
theorem witness_AluAgreesWithBitVectors :
    Params.default.aluModel = .laws ∧ (lit 1 .signed 64).legal = true ∧ (lit 1 .bool 1).legal = true := by decide
theorem witness_AluCompletes :
    (0 : BitVec 4).toNat ≤ 13 ∧ (13 : BitVec 4).toNat ≤ 13 ∧ (sample.reg 0).tag ≠ .uninitialized ∧
      (sample.reg 255).tag ≠ .uninitialized := by decide +kernel
theorem witness_AluImmCompletes : (13 : BitVec 4).toNat ≤ 13 ∧ (sample.reg 255).tag ≠ .uninitialized := by decide +kernel
theorem witness_AluUnaryCompletes :
    (1 : BitVec 2).toNat ≤ 1 ∧ (sample.reg 255).tag ≠ .uninitialized ∧ sample.cfg.aluModel = .laws := by decide +kernel
theorem witness_LoadInputCompletes : (63 : PortId).toNat < sample.cfg.nInPorts ∧ sample.cfg.inPortTypes = [] := by decide
theorem witness_StoreOutputCompletes :
    (63 : PortId).toNat < sample.cfg.nOutPorts ∧ (sample.reg 255).tag ≠ .uninitialized := by decide +kernel
theorem witness_MovCompletes : (sample.reg 255).tag ≠ .uninitialized := by decide +kernel
theorem witness_LoadImmCompletes :
    1 ≤ (1 : BitVec 8).toNat ∧ (1 : BitVec 8).toNat ≤ 64 ∧ 1 ≤ (64 : BitVec 8).toNat ∧ (64 : BitVec 8).toNat ≤ 64 := by decide
theorem witness_GuardInitsComplete :
    sample.unit? 63 = some resetUnit ∧ sample.unit? 3 = some (.ctr 0 2 2 (some 4)) ∧ (255 : BitVec 8) ≠ 0 := by
  decide +kernel
theorem witness_GuardTicksComplete :
    sample.unit? 1 = some (.sr 0 2 [true, true] none) ∧ sample.unit? 2 = some (.ctr 0 2 1 none) ∧ sample.mode = .reflex ∧
      (sample.reg 0).tag ≠ .uninitialized ∧ ({ sample with mode := .host } : State).mode = .host := by decide +kernel
theorem witness_GuardQueriesComplete :
    sample.unit? 1 = some (.sr 0 2 [true, true] none) ∧ sample.unit? 2 = some (.ctr 0 2 1 none) := by decide +kernel
theorem witness_GuardCombinationsComplete :
    sample.unit? 1 = some (.sr 0 2 [true, true] none) ∧ sample.unit? 2 = some (.ctr 0 2 1 none) ∧
      (GuardUnit.sr 0 2 [true, true] none).kind ≠ .unconfigured ∧ (GuardUnit.ctr 0 2 1 none).kind ≠ .unconfigured := by decide +kernel
theorem witness_ShiftRegisterAndCounterGuardsAgree :
    sample.cfg.guardModel = .laws ∧ sample.mode = .reflex ∧ (0 : GuardId).toNat ≤ 63 ∧ (63 : GuardId).toNat ≤ 63 ∧ (0 : GuardId) ≠ 63 ∧ (1 : BitVec 8) ≠ 0 ∧
      ∀ v ∈ [lit 1 .bool 1, lit 0 .unsigned 8], v.tag ≠ .uninitialized := by decide
theorem witness_ReflexIfCompletes :
    sample.unit? 1 = some (.sr 0 2 [true, true] none) ∧ (GuardUnit.sr 0 2 [true, true] none).active sample.cfg.guardFns = true ∧
      (GuardUnit.sr 0 2 [true, true] none).kind ≠ .unconfigured ∧ (sample.reg 192).tag ≠ .uninitialized ∧
      sample.unit? 2 = some (.ctr 0 2 1 none) ∧ (GuardUnit.ctr 0 2 1 none).active sample.cfg.guardFns = false ∧
      (GuardUnit.ctr 0 2 1 none).kind ≠ .unconfigured := by decide +kernel
/-- Delay 0, and a delay equal to the number of tick boundaries, on an initialized and on an Uninitialized word. -/
theorem witness_PrevCompletes :
    let s : State := { sample with tick := 1, hist := [sample.regs] }
    (0 : BitVec 8) = 0 ∧ (1 : BitVec 8) ≠ 0 ∧ (1 : BitVec 8).toNat ≤ s.tick ∧ s.hist[(1 : BitVec 8).toNat - 1]? = some sample.regs ∧
      sample.regs[(0 : RegId).toNat]? = some (lit 5 .unsigned 8) ∧ (lit 5 .unsigned 8).tag ≠ .uninitialized ∧
      sample.regs[(200 : RegId).toNat]? = some (lit 0 .uninitialized 8) :=
  ⟨rfl, by decide, by decide, rfl, by decide +kernel, by decide, by decide +kernel⟩
theorem witness_AssertionsComplete :
    ({ sample.cfg with assertChecked := false } : Params).assertChecked = false ∧ sample.cfg.assertChecked = true ∧
      (sample.reg 0).tag ≠ .uninitialized ∧ (sample.reg 0).truth = true ∧
      ((sample.setReg 0 (lit 0 .unsigned 1)).reg 0).tag ≠ .uninitialized ∧
      ((sample.setReg 0 (lit 0 .unsigned 1)).reg 0).truth = false := by decide +kernel
theorem witness_TrapsTakeTheNamedException :
    (1 : BitVec 26).toNat = ExcCode.divisionByZero.number ∧ (6 : BitVec 18).toNat = ExcCode.userTrap.number ∧
      (sample.reg 0).tag ≠ .uninitialized ∧ (sample.reg 0).truth = true ∧
      ((sample.setReg 0 (lit 0 .unsigned 1)).reg 0).truth = false := by decide +kernel
theorem witness_ModeSwitchCompletes : sample.mode = .reflex ∧ ({ sample with mode := .host } : State).mode = .host := by decide
theorem witness_NopOnlyAdvances : sample.run = .running ∧ sample.cfg.refusal = none ∧ sample.fetches sample .nop :=
  ⟨witness_StepRunsTheDecodedInstruction.1, sample_refusal, witness_StepRunsTheDecodedInstruction.2.2.2.1⟩
theorem witness_TagInstructionsComplete :
    (Tag.unsigned, (0x1 : BitVec 4)) ∈ [(Tag.bool, 0x0), (.unsigned, 0x1), (.signed, 0x2), (.uninitialized, (0xF : BitVec 4))] ∧
      (sample.reg 0).tag = .unsigned ∧ (sample.reg 200).tag ≠ .unsigned := by decide +kernel
theorem witness_DeadlineSetCompletes :
    sample.unit? 3 = some (.ctr 0 2 2 (some 4)) ∧ (GuardUnit.ctr 0 2 2 (some 4)).kind ≠ .unconfigured ∧ (1 : BitVec 18) ≠ 0 := by
  decide +kernel
/-- A unit without a deadline, the unit that the instruction arms, and the others: met, missed, counted down. -/
theorem witness_DeadlinesCountAtTheEndOfACycle :
    sample.run = .running ∧ sample.guards[(0 : Fin 64)].deadline = none ∧ armedUnit (.deadlineSet 3 1) = some (3 : Fin 64).val ∧
      armedUnit .nop ≠ some (3 : Fin 64).val ∧ sample.guards[(3 : Fin 64)].deadline = some 4 ∧
      ({ sample with run := .halted 0 } : State).run ≠ .running := by decide +kernel
theorem witness_DeadlineMissIsRaisedOnce :
    let s : State := { sample with guards := sample.guards.set 3 (.ctr 0 2 2 (some 1)) }
    s.run = .running ∧ armedUnit .nop ≠ some (3 : Fin 64).val ∧ s.guards[(3 : Fin 64)].deadline = some 1 ∧
      s.guards[(3 : Fin 64)].active s.cfg.guardFns = false := by decide +kernel
theorem witness_DeadlineMissIsRaisedOnce_none (k : Fin 64) (r : Nat) (h : sample.guards[k].deadline = some r) :
    1 < r ∨ sample.guards[k].active sample.cfg.guardFns = true := by
  have : ∀ k : Fin 64, sample.guards[k].deadline = none ∨ sample.guards[k].deadline = some 4 := by decide +kernel
  rcases this k with h' | h' <;> rw [h'] at h <;> simp at h
  omega
theorem witness_ReservedOperandsAreRefused : (Instr.guardAnd 0 0 64).wellFormed = false ∧ (Instr.alu 14 0 0 0).wellFormed = false := by
  decide
/-- Each clause at the first value out of range. -/
theorem witness_OperandsOutOfRangeAreRefused :
    sample.cfg.nInPorts ≤ (64 : PortId).toNat ∧ sample.cfg.nOutPorts ≤ (64 : PortId).toNat ∧ 64 < (65 : BitVec 8).toNat ∧
      (63 : GuardId).toNat ≤ 63 ∧ sample.unit? 3 = some (.ctr 0 2 2 (some 4)) ∧ (GuardUnit.ctr 0 2 2 (some 4)).kind ≠ .unconfigured ∧
      sample.mode = .reflex ∧ ({ sample with mode := .host } : State).mode = .host ∧ sample.tick < (1 : BitVec 8).toNat := by
  decide +kernel
theorem witness_GuardsNotConfiguredAreRefused :
    sample.unit? 0 = some resetUnit ∧ resetUnit.kind = .unconfigured ∧ sample.unit? 1 = some (.sr 0 2 [true, true] none) ∧
      sample.unit? 2 = some (.ctr 0 2 1 none) := by decide +kernel
/-- Two states that differ in provenance and nothing else. -/
theorem witness_ProvenanceIsNeverRead :
    sample.eraseProv = (sample.setReg 0 { lit 5 .unsigned 8 with prov := .input 3 }).eraseProv ∧
      (sample.setReg 0 { lit 5 .unsigned 8 with prov := .input 3 }) ≠ sample ∧ sample.mode = .reflex := by
  refine ⟨?_, fun h => absurd (congrArg (fun s : State => (s.reg 0).prov) h) (by decide +kernel), rfl⟩
  have h : sample.regs.map eraseWordProv =
      (sample.setReg 0 { lit 5 .unsigned 8 with prov := .input 3 }).regs.map eraseWordProv := by
    refine Vector.ext fun k hk => ?_
    simp only [State.setReg, Vector.getElem_map, Vector.getElem_set]
    split
    · rename_i h
      subst h
      rfl
    · rfl
  simp only [State.eraseProv, h]
  rfl

end Sys2Proof.Tests
end

section
/-!
PROOFS. What an accepted word tells about the decoder's run, and the opcode of a decoded instruction (30_encoding.md R60).
-/

namespace Sys2Proof

/-- word[31:26] as a bit field and as a shift are the same number (30_encoding.md R60). -/
theorem opcodeField_toNat (w : Word) : (opcodeField w).toNat = (w >>> 26).toNat := by
  have hlt : w.toNat < 2 ^ 32 := w.isLt
  simp only [opcodeField, BitVec.extractLsb'_toNat, BitVec.toNat_ushiftRight, Nat.shiftRight_eq_div_pow]
  omega

theorem whenZero_eq_ok {unusedZero : Bool} {i j : Instr} :
    whenZero unusedZero i = .ok j ↔ unusedZero = true ∧ i = j := by
  cases unusedZero <;> simp [whenZero]

/-- The decoder accepts an instruction when the word's form spells it and the encoding forbids none of its operands. -/
theorem decode_eq_ok {w : Word} {i : Instr} : decode w = .ok i ↔ decodeForm w = .ok i ∧ i.illegal = none := by
  unfold decode
  cases decodeForm w with
  | error e => simp
  | ok j =>
    constructor
    · intro h
      dsimp only at h
      split at h
      next => cases h
      next hlegal =>
        obtain rfl := Except.ok.inj h
        exact ⟨rfl, hlegal⟩
    · rintro ⟨hj, hlegal⟩
      obtain rfl := Except.ok.inj hj
      simp only [hlegal]

/-- Each row of R80's table spells an instruction of the row's own opcode, whether the row constrains its unused fields
(R71) or uses all of them. -/
theorem opcode_of_decodeForm {w : Word} {i : Instr} (h : decodeForm w = .ok i) : i.opcode = (opcodeField w).toNat := by
  unfold decodeForm at h
  split at h
  case h_31 => cases h
  case h_4 hop | h_5 hop | h_6 hop | h_19 hop | h_20 hop | h_21 hop | h_22 hop | h_23 hop | h_24 hop | h_30 hop =>
    obtain rfl := Except.ok.inj h
    exact hop.symm
  all_goals
    next hop =>
      obtain ⟨-, rfl⟩ := whenZero_eq_ok.mp h
      exact hop.symm

/-- Settles O3: the check of operand values keeps the instruction that the form spelled, and the form was chosen by
word[31:26]. -/
theorem topSixBitsSelectTheInstruction : Obligations.TopSixBitsSelectTheInstruction := by
  unfold Obligations.TopSixBitsSelectTheInstruction
  intro w i h
  obtain ⟨hform, -⟩ := decode_eq_ok.mp h
  calc i.opcode = (opcodeField w).toNat := opcode_of_decodeForm hform
    _ = (w >>> 26).toNat := opcodeField_toNat w

end Sys2Proof
end

section
/-!
PROOFS. What a step makes of a fetched instruction that answers a next state, and NOP (45_control_tier.md R191).
-/

namespace Sys2Proof.Machine

/-- An instruction that answers a next state makes the step that fetches it answer one too, one cycle later than the fetch
(70_reset_and_hazards.md R280 part 7). -/
theorem step_counts_cycle_of_exec {s u v : State} {i : Instr} (hr : s.run = .running) (hc : s.cfg.refusal = none)
    (hf : s.fetches u i) (hv : exec i u = .next v) (hcycle : v.cycle = u.cycle) :
    ∃ t, step s = .next t ∧ t.cycle = s.cycle + 1 := by
  refine ⟨endOfCycle u.mode i v, step_eq_next.mpr ⟨hr, hc, u, i, v, hf, hv, rfl⟩, ?_⟩
  rw [endOfCycle_cycle, hcycle, fetches_cycle hf]

/-- NOP completes in every state and does nothing more (45_control_tier.md R191, 10_state.md R20). -/
theorem exec_nop (s : State) : exec .nop s = .next { s with pc := s.pc + 1 } := rfl

/-- Settles O49: the two words by decoding them, the effect by `exec_nop`, and the one cycle because what NOP leaves for the
end of the cycle has the cycle count of the fetch. -/
theorem nopOnlyAdvances : Obligations.NopOnlyAdvances := by
  unfold Obligations.NopOnlyAdvances
  refine ⟨?nopWord, ?zeroWord, ?armsNothing, exec_nop, ?oneCycle⟩
  case nopWord => decide
  case zeroWord => decide
  case armsNothing => rfl
  case oneCycle =>
    intro s u hr hc hf
    exact step_counts_cycle_of_exec hr hc hf (exec_nop u) rfl

end Sys2Proof.Machine
end

section
/-!
PROOFS. Which handler entry decides an exception, and what decides when none does (60_exceptions.md R225, R228, R235).
-/

namespace Sys2Proof.Machine

/-- The scan passes over entries for other codes and stops at the first one for the code raised (60_exceptions.md R225). -/
theorem handlerFor_eq_some_of_first {cfg : Params} {c : ExcCode} {before after : List HandlerEntry} {e : HandlerEntry}
    (htable : cfg.handlers = before ++ e :: after) (hbefore : ∀ b ∈ before, b.code ≠ c.number) (he : e.code = c.number) :
    cfg.handlerFor c = some e := by
  have hskip : before.find? (fun b => b.code == c.number) = none := by simpa using hbefore
  have hhit : (e.code == c.number) = true := by simpa using he
  rw [Params.handlerFor, htable, List.find?_append, hskip, Option.none_or,
    List.find?_cons_of_pos (p := fun b : HandlerEntry => b.code == c.number) hhit]

/-- A table that does not name the code has no entry for it (60_exceptions.md R225). -/
theorem handlerFor_eq_none_iff {cfg : Params} {c : ExcCode} :
    cfg.handlerFor c = none ↔ ∀ b ∈ cfg.handlers, b.code ≠ c.number := by
  simp [Params.handlerFor]

/-- What an entry does depends on no parameter. -/
theorem handle_with_cfg (s : State) (cfg : Params) (c : ExcCode) (r : Nat) (e : HandlerEntry) :
    State.handle { s with cfg := cfg } c r e = { s.handle c r e with cfg := cfg } := by
  unfold State.handle
  split <;> rfl

/-- Below depth 8, two sets of parameters that find the same entry take an exception alike: the parameters count only
through the entry found. -/
theorem raise_of_sameHandler {s : State} {c : ExcCode} {e : HandlerEntry} {cfg : Params} (r : Nat)
    (hd : s.depth ≠ Config.maxExceptionDepth) (he : s.cfg.handlerFor c = some e) (he' : cfg.handlerFor c = some e) :
    s.raise c r = { State.raise { s with cfg := cfg } c r with cfg := s.cfg } := by
  have hreplaced : State.raise { s with cfg := cfg } c r = { s.raise c r with cfg := cfg } := by
    rw [raise_of_handler r hd he, raise_of_handler (s := { s with cfg := cfg }) r hd he',
      ← handle_with_cfg { s with exc := some c } cfg]
  rw [hreplaced, ← raise_cfg s c r]

/-- An entry without an action transfers control to its address, one level deeper (60_exceptions.md R233). -/
theorem raise_of_transfer {s : State} {c : ExcCode} {e : HandlerEntry} (r : Nat)
    (hd : s.depth ≠ Config.maxExceptionDepth) (he : s.cfg.handlerFor c = some e) (ha : e.action = none) :
    s.raise c r = { s with exc := some c, depth := s.depth + 1, pc := e.address } := by
  rw [raise_of_handler r hd he, State.handle, ha]

/-- The default of reflex mode (60_exceptions.md R235). -/
theorem raise_of_noHandler_reflex {s : State} {c : ExcCode} (r : Nat) (hd : s.depth ≠ Config.maxExceptionDepth)
    (he : s.cfg.handlerFor c = none) (hm : s.mode = .reflex) :
    s.raise c r = { s with exc := some c, run := .emergencyStopped (.unhandled c) } := by
  simp [raise_of_noHandler r hd he, State.unhandled, hm]

/-- The default of host mode (60_exceptions.md R239). -/
theorem raise_of_noHandler_host {s : State} {c : ExcCode} (r : Nat) (hd : s.depth ≠ Config.maxExceptionDepth)
    (he : s.cfg.handlerFor c = none) (hm : s.mode = .host) :
    s.raise c r = { s with exc := some c, run := .trappedToHost c } := by
  simp [raise_of_noHandler r hd he, State.unhandled, hm]

/-- Settles O22: the depth test comes before the search of the table. -/
theorem exceptionAtMaximumDepthStops : Obligations.ExceptionAtMaximumDepthStops := by
  unfold Obligations.ExceptionAtMaximumDepthStops
  exact ⟨rfl, fun _ c resume hd => raise_of_maxDepth c resume hd⟩

/-- Settles O23: the whole table and the table of the first matching entry alone find the same entry; a table that does not
name the code finds none, and the mode's default decides. -/
theorem firstMatchingEntryDecides : Obligations.FirstMatchingEntryDecides := by
  unfold Obligations.FirstMatchingEntryDecides
  intro s c resume hd
  refine ⟨?firstMatch, ?noMatch⟩
  case firstMatch =>
    intro before after e htable hbefore he
    have hfound : s.cfg.handlerFor c = some e := handlerFor_eq_some_of_first htable hbefore he
    have halone : ({ s.cfg with handlers := [e] } : Params).handlerFor c = some e :=
      handlerFor_eq_some_of_first (before := []) (after := []) rfl (by simp) he
    refine ⟨raise_of_sameHandler resume hd hfound halone, fun ha => ?_⟩
    rw [raise_of_transfer resume hd hfound ha]
    exact ⟨rfl, rfl⟩
  case noMatch =>
    intro hnone
    have hunfound : s.cfg.handlerFor c = none := handlerFor_eq_none_iff.mpr hnone
    exact ⟨fun hm => by rw [raise_of_noHandler_reflex resume hd hunfound hm],
      fun hm => by rw [raise_of_noHandler_host resume hd hunfound hm]⟩

/-- Settles O24: no entry names the code, so reflex mode's default decides. -/
theorem unhandledInReflexModeStops : Obligations.UnhandledInReflexModeStops := by
  unfold Obligations.UnhandledInReflexModeStops
  intro s c resume hd hm hnone
  exact raise_of_noHandler_reflex resume hd (handlerFor_eq_none_iff.mpr hnone) hm

end Sys2Proof.Machine
end

section
/-!
PROOFS. No transition out of the stopped states, and a new run from reset (70_reset_and_hazards.md R271).
-/

namespace Sys2Proof.Machine

/-- Settles O7: a step that answers a next state began Running, by the inversion of the step; reset sets the run state and
takes the parameters as they are given. -/
theorem stoppedMachineNeverSteps : Obligations.StoppedMachineNeverSteps := by
  unfold Obligations.StoppedMachineNeverSteps
  refine ⟨?noTransition, ?newRun⟩
  case noTransition =>
    intro s t hstopped hstep
    obtain ⟨hrunning, -⟩ := step_eq_next.mp hstep
    exact hstopped hrunning
  case newRun =>
    intro cfg
    exact ⟨rfl, rfl⟩

end Sys2Proof.Machine
end

section
/-!
PROOFS. Encoding and decoding undo each other (30_encoding.md R66 to R68, R72), and the rows of spec/opcode_table.json.
-/

namespace Sys2Proof

/-! ## A word spelled field by field (30_encoding.md R61 to R64) -/

theorem wordRG_of_fields {w : Word} {o : BitVec 6} {a b c : BitVec 8} {f : BitVec 2}
    (ho : (opcodeField w).toNat = o.toNat) (ha : fieldA w = a) (hb : fieldB w = b) (hc : fieldC w = c)
    (hf : funcField w = f) : wordRG o a b c f = w := by
  obtain rfl := BitVec.eq_of_toNat_eq ho
  subst ha hb hc hf
  exact wordRG_eta w

theorem wordI_of_fields {w : Word} {o : BitVec 6} {a b : BitVec 8} {m : BitVec 10}
    (ho : (opcodeField w).toNat = o.toNat) (ha : fieldA w = a) (hb : fieldB w = b) (hm : imm10 w = m) :
    wordI o a b m = w := by
  obtain rfl := BitVec.eq_of_toNat_eq ho
  subst ha hb hm
  exact wordI_eta w

theorem wordS_of_fields {w : Word} {o : BitVec 6} {n : BitVec 26}
    (ho : (opcodeField w).toNat = o.toNat) (hn : imm26 w = n) : wordS o n = w := by
  obtain rfl := BitVec.eq_of_toNat_eq ho
  subst hn
  exact wordS_eta w

theorem wordSA_of_fields {w : Word} {o : BitVec 6} {a : BitVec 8} {k : BitVec 18}
    (ho : (opcodeField w).toNat = o.toNat) (ha : fieldA w = a) (hk : imm18 w = k) : wordSA o a k = w := by
  obtain rfl := BitVec.eq_of_toNat_eq ho
  subst ha hk
  exact wordSA_eta w

/-! ## Decoding the word of an instruction -/

theorem wellFormed_iff {i : Instr} : i.wellFormed = true ↔ i.illegal = none := by
  simp [Instr.wellFormed]

/-- An ALU word is one of the four with the registers in place, and carries the operation number (30_encoding.md R67). -/
theorem encodeAlu_eq_some {op : BitVec 4} {dst a b : RegId} {w : Word} (h : encodeAlu op dst a b = some w) :
    (∃ f, w = wordRG 4 dst a b f) ∧ Config.aluOpOf w = op := by
  refine ⟨?place, by simpa using List.find?_some h⟩
  case place =>
    have hmem := List.mem_of_find?_eq_some h
    simp only [aluCandidates, List.mem_cons, List.not_mem_nil, or_false] at hmem
    rcases hmem with rfl | rfl | rfl | rfl
    all_goals exact ⟨_, rfl⟩

/-- The encoder's form of an instruction spells that instruction (30_encoding.md R66 to R68). -/
theorem decodeForm_of_encode {i : Instr} {w : Word} (h : encode i = some w) : decodeForm w = .ok i := by
  cases i
  case alu op dst a b =>
    obtain ⟨⟨f, rfl⟩, rfl⟩ := encodeAlu_eq_some h
    simp [decodeForm]
  all_goals
    obtain rfl := Option.some.inj h
    simp [decodeForm, whenZero]

theorem decode_of_encode {i : Instr} {w : Word} (hi : i.wellFormed = true) (h : encode i = some w) :
    decode w = .ok i :=
  decode_eq_ok.mpr ⟨decodeForm_of_encode h, wellFormed_iff.mp hi⟩

/-- Only ALU can lack a word: its operation number has no settled place (30_encoding.md R67). -/
theorem exists_encode {i : Instr} (h : i.opcode ≠ 4) : ∃ w, encode i = some w := by
  cases i
  case alu => exact absurd rfl h
  all_goals exact ⟨_, rfl⟩

/-- Settles O1: the decoder's field functions read back the operands that the encoder's formats put there, and the
operands are those the encoding admits. -/
theorem decodeOfEncode : Obligations.DecodeOfEncode := by
  unfold Obligations.DecodeOfEncode
  intro i hi
  refine ⟨fun w hw => decode_of_encode hi hw, fun hop => ?_⟩
  obtain ⟨w, hw⟩ := exists_encode hop
  exact ⟨w, hw, decode_of_encode hi hw⟩

/-! ## Encoding the instruction of a word -/

/-- Bits of src1 and src2 that the tag instructions do not use are zero, so their tag is the whole field. -/
theorem fieldB_of_restZero {w : Word} (h : restOfB w = 0) : fieldB w = (0 : BitVec 4) ++ tagInB w := by
  rw [← fieldB_eta w, h]

theorem fieldC_of_restZero {w : Word} (h : restOfC w = 0) : fieldC w = (0 : BitVec 4) ++ tagInC w := by
  rw [← fieldC_eta w, h]

/-- A form whose unused fields are zero is the encoder's form (30_encoding.md R71). -/
theorem encode_of_decodeForm {w : Word} {i : Instr} (h : decodeForm w = .ok i) (hop : i.opcode ≠ 4) :
    encode i = some w := by
  unfold decodeForm at h
  split at h
  case h_31 => cases h
  case h_5 => obtain rfl := Except.ok.inj h; exact absurd rfl hop
  case h_4 ho => obtain rfl := Except.ok.inj h; exact congrArg some (wordI_of_fields ho rfl rfl rfl)
  case h_6 ho =>
    obtain rfl := Except.ok.inj h
    exact congrArg some (wordI_of_fields ho rfl rfl (imm10_eta w).symm)
  case h_21 ho | h_23 ho | h_24 ho => obtain rfl := Except.ok.inj h; exact congrArg some (wordS_of_fields ho rfl)
  case h_19 ho | h_20 ho | h_22 ho | h_30 ho =>
    obtain rfl := Except.ok.inj h
    exact congrArg some (wordSA_of_fields ho rfl rfl)
  all_goals
    obtain ⟨hz, rfl⟩ := whenZero_eq_ok.mp h
    simp only [Bool.and_eq_true, beq_iff_eq] at hz
    refine congrArg some ?_
  case h_1 ho => exact wordI_of_fields ho rfl hz rfl
  case h_2 ho => exact wordI_of_fields ho hz rfl rfl
  case h_18 ho | h_28 ho | h_29 ho => exact wordS_of_fields ho hz
  case h_3 ho | h_10 ho | h_13 ho | h_27 ho => exact wordRG_of_fields ho rfl rfl hz.1 hz.2
  case h_7 ho => exact wordRG_of_fields ho rfl rfl hz rfl
  case h_9 ho | h_12 ho => exact wordRG_of_fields ho rfl hz.1.1 hz.1.2 hz.2
  case h_25 ho => exact wordRG_of_fields ho rfl (fieldB_of_restZero hz.1.1) hz.1.2 hz.2
  case h_26 ho => exact wordRG_of_fields ho hz.1.1 rfl (fieldC_of_restZero hz.1.2) hz.2
  case h_8 ho | h_11 ho | h_14 ho | h_15 ho | h_16 ho | h_17 ho =>
    exact wordRG_of_fields ho rfl rfl rfl hz

/-- An ALU word that decodes shows that its operation number has a word (30_encoding.md R67). -/
theorem exists_encodeAlu (w : Word) (h : (opcodeField w).toNat = 4) :
    ∃ w', encodeAlu (Config.aluOpOf w) (fieldA w) (fieldB w) (fieldC w) = some w' := by
  have hw : wordRG 4 (fieldA w) (fieldB w) (fieldC w) (funcField w) = w := wordRG_of_fields h rfl rfl rfl rfl
  have hfuncs : ∀ f : BitVec 2, f = 0 ∨ f = 1 ∨ f = 2 ∨ f = 3 := by decide
  have hmem : w ∈ aluCandidates (fieldA w) (fieldB w) (fieldC w) := by
    rw [← hw]
    rcases hfuncs (funcField w) with hf | hf | hf | hf
    all_goals simp [aluCandidates, hf]
  exact Option.isSome_iff_exists.mp (List.find?_isSome.mpr ⟨w, hmem, by simp⟩)

/-- The instruction of an opcode 4 form. -/
theorem alu_of_decodeForm {w : Word} {i : Instr} (h : decodeForm w = .ok i) (hop : i.opcode = 4) :
    i = .alu (Config.aluOpOf w) (fieldA w) (fieldB w) (fieldC w) := by
  rw [opcode_of_decodeForm h] at hop
  simp only [decodeForm, hop, Except.ok.injEq] at h
  exact h.symm

/-- Settles O2: a form is the encoder's form of its instruction; for ALU the search of the encoder finds a word, since the
decoded word itself is among the four it tries. -/
theorem encodeOfDecode : Obligations.EncodeOfDecode := by
  unfold Obligations.EncodeOfDecode
  intro w i h
  obtain ⟨hform, hlegal⟩ := decode_eq_ok.mp h
  have hi : i.wellFormed = true := wellFormed_iff.mpr hlegal
  refine ⟨hi, fun hop => encode_of_decodeForm hform hop, ?_⟩
  obtain ⟨w', hw'⟩ : ∃ w', encode i = some w' := by
    by_cases hop : i.opcode = 4
    · obtain rfl := alu_of_decodeForm hform hop
      rw [opcode_of_decodeForm hform] at hop
      exact exists_encodeAlu w hop
    · exact exists_encode hop
  exact ⟨w', hw', decode_of_encode hi hw'⟩

/-! ## The rows of the opcode table -/

/-- The strict mask of an instruction's row of spec/opcode_table.json, by the fields of its format: all bits of the opcode
and of every field the instruction does not use. -/
def strictMask : Instr → Word
  | .loadInput _ _ => wordI 63 0 255 0
  | .storeOutput _ _ => wordI 63 255 0 0
  | .mov _ _ => wordRG 63 0 0 255 3
  | .loadImm _ _ _ => wordI 63 0 0 0
  | .alu _ _ _ _ => wordRG 63 0 0 0 0
  | .aluImm _ _ _ _ => wordI 63 0 0 0
  | .aluUnary _ _ _ => wordRG 63 0 0 255 0
  | .srInit _ _ _ => wordRG 63 0 0 0 3
  | .srTick _ => wordRG 63 0 255 255 3
  | .srQuery _ _ => wordRG 63 0 0 255 3
  | .ctrInit _ _ _ => wordRG 63 0 0 0 3
  | .ctrTick _ => wordRG 63 0 255 255 3
  | .ctrQuery _ _ => wordRG 63 0 0 255 3
  | .guardAnd _ _ _ => wordRG 63 0 0 0 3
  | .guardOr _ _ _ => wordRG 63 0 0 0 3
  | .reflexIf _ _ _ => wordRG 63 0 0 0 3
  | .prev _ _ _ => wordRG 63 0 0 0 3
  | .emergencyStop => wordS 63 (BitVec.allOnes 26)
  | .assertAlways _ _ => wordSA 63 0 0
  | .assertNever _ _ => wordSA 63 0 0
  | .trap _ => wordS 63 0
  | .trapIf _ _ => wordSA 63 0 0
  | .halt _ => wordS 63 0
  | .modeSwitch _ => wordS 63 0
  | .tagLoad _ _ => wordRG 63 0 ((15 : BitVec 4) ++ (0 : BitVec 4)) 255 3
  | .tagCheck _ _ => wordRG 63 255 0 ((15 : BitVec 4) ++ (0 : BitVec 4)) 3
  | .tagRead _ _ => wordRG 63 0 0 255 3
  | .nop => wordS 63 (BitVec.allOnes 26)
  | .fence => wordS 63 (BitVec.allOnes 26)
  | .deadlineSet _ _ => wordSA 63 0 0

theorem wordRG_and (o o' : BitVec 6) (a b c a' b' c' : BitVec 8) (f f' : BitVec 2) :
    wordRG o a b c f &&& wordRG o' a' b' c' f' = wordRG (o &&& o') (a &&& a') (b &&& b') (c &&& c') (f &&& f') := by
  refine BitVec.and_append.trans ?_
  simp only [BitVec.and_append]
  rfl

theorem wordI_and (o o' : BitVec 6) (a b a' b' : BitVec 8) (m m' : BitVec 10) :
    wordI o a b m &&& wordI o' a' b' m' = wordI (o &&& o') (a &&& a') (b &&& b') (m &&& m') := by
  refine BitVec.and_append.trans ?_
  simp only [BitVec.and_append]
  rfl

theorem wordS_and (o o' : BitVec 6) (n n' : BitVec 26) : wordS o n &&& wordS o' n' = wordS (o &&& o') (n &&& n') := by
  exact BitVec.and_append

theorem wordSA_and (o o' : BitVec 6) (a a' : BitVec 8) (k k' : BitVec 18) :
    wordSA o a k &&& wordSA o' a' k' = wordSA (o &&& o') (a &&& a') (k &&& k') := by
  refine BitVec.and_append.trans ?_
  simp only [BitVec.and_append]
  rfl

/-- The mask of the unused half of a field leaves nothing of an operand in the other half. -/
theorem lowHalf_and_highMask (t : BitVec 4) : (0#4 ++ t : BitVec 8) &&& (15#4 ++ 0#4 : BitVec 8) = 0#8 := by
  revert t
  decide

/-- The word whose only nonzero field is its opcode. -/
theorem wordRG_opcode {o : BitVec 6} {n : Nat} (h : n = o.toNat) : wordRG o 0 0 0 0 = BitVec.ofNat 32 (n * 2 ^ 26) := by
  subst h
  revert o
  decide

theorem wordI_opcode {o : BitVec 6} {n : Nat} (h : n = o.toNat) : wordI o 0 0 0 = BitVec.ofNat 32 (n * 2 ^ 26) := by
  subst h
  revert o
  decide

theorem wordS_opcode {o : BitVec 6} {n : Nat} (h : n = o.toNat) : wordS o 0 = BitVec.ofNat 32 (n * 2 ^ 26) := by
  subst h
  revert o
  decide

theorem wordSA_opcode {o : BitVec 6} {n : Nat} (h : n = o.toNat) : wordSA o 0 0 = BitVec.ofNat 32 (n * 2 ^ 26) := by
  subst h
  revert o
  decide

/-- The row of ALU masks the opcode alone, wherever the operation number stands. -/
theorem and_strictMask_alu (op : BitVec 4) (dst a b : RegId) (f : BitVec 2) :
    wordRG 4 dst a b f &&& strictMask (.alu op dst a b) =
      BitVec.ofNat 32 ((Instr.alu op dst a b).opcode * 2 ^ 26) := by
  generalize hn : (Instr.alu op dst a b).opcode = n
  simp only [strictMask, wordRG_and, BitVec.ofNat_eq_ofNat, BitVec.and_zero]
  exact wordRG_opcode hn.symm

/-- Under its row's mask every word of an instruction keeps the opcode alone. -/
theorem and_strictMask_of_encode {i : Instr} {w : Word} (h : encode i = some w) :
    w &&& strictMask i = BitVec.ofNat 32 (i.opcode * 2 ^ 26) := by
  generalize hn : i.opcode = n
  cases i
  case alu op dst a b =>
    obtain ⟨⟨f, rfl⟩, -⟩ := encodeAlu_eq_some h
    rw [← hn]
    exact and_strictMask_alu op dst a b f
  all_goals
    obtain rfl := Option.some.inj h
  case loadInput | storeOutput | loadImm | aluImm =>
    simp only [strictMask, wordI_and, BitVec.ofNat_eq_ofNat, BitVec.and_zero, BitVec.zero_and]
    exact wordI_opcode hn.symm
  case emergencyStop | trap | halt | modeSwitch | nop | fence =>
    simp only [strictMask, wordS_and, BitVec.ofNat_eq_ofNat, BitVec.and_zero, BitVec.zero_and]
    exact wordS_opcode hn.symm
  case assertAlways | assertNever | trapIf | deadlineSet =>
    simp only [strictMask, wordSA_and, BitVec.ofNat_eq_ofNat, BitVec.and_zero]
    exact wordSA_opcode hn.symm
  all_goals
    simp only [strictMask, wordRG_and, lowHalf_and_highMask, BitVec.ofNat_eq_ofNat, BitVec.and_zero, BitVec.zero_and]
    exact wordRG_opcode hn.symm

theorem decode_of_unassigned {w : Word} (h : 30 ≤ (opcodeField w).toNat) : decode w = .error .unassignedOpcode := by
  have hform : decodeForm w = .error .unassignedOpcode := by
    unfold decodeForm
    split
    case h_31 => rfl
    all_goals omega
  simp only [decode, hform]

/-- Settles O4: the table's mask of a row is `strictMask` of its instructions, and an accepted word is the encoder's word of
its instruction, or an ALU word, whose row masks the opcode alone. -/
theorem acceptedWordsObeyTheOpcodeTable : Obligations.AcceptedWordsObeyTheOpcodeTable := by
  unfold Obligations.AcceptedWordsObeyTheOpcodeTable
  refine ⟨fun w i h => ?accepted, fun w h => ?unassigned⟩
  case unassigned =>
    rw [← opcodeField_toNat] at h
    exact decode_of_unassigned h
  case accepted =>
    obtain ⟨hform, -⟩ := decode_eq_ok.mp h
    have hmask : w &&& strictMask i = BitVec.ofNat 32 (i.opcode * 2 ^ 26) := by
      by_cases hop : i.opcode = 4
      · obtain rfl := alu_of_decodeForm hform hop
        have hw : (opcodeField w).toNat = 4 := (opcode_of_decodeForm hform).symm.trans hop
        conv_lhs => rw [← wordRG_of_fields (o := 4) hw rfl rfl rfl rfl]
        exact and_strictMask_alu _ _ _ _ _
      · exact and_strictMask_of_encode (encode_of_decodeForm hform hop)
    rw [← hmask]
    congr 1
    cases i
    all_goals rfl

/-- Settles O5: the fourteen words, decoded. -/
theorem decodesTheSpecsWords : Obligations.DecodesTheSpecsWords := by
  unfold Obligations.DecodesTheSpecsWords
  decide

end Sys2Proof
end

section
/-!
PROOFS. The invariant (Sys2Proof/Safety.lean): what each part of a cycle does to it, and that every step keeps it.
-/

namespace Sys2Proof.Machine

/-! ## The shared updates keep the invariant -/

section
variable {s : State} (hI : s.Inv)
include hI

theorem State.Inv.wordsLegal : WordsLegal s := ⟨hI.portTypes, hI.regs, hI.hist⟩

theorem State.Inv.unit_legal {g : GuardId} {u : GuardUnit} (hu : s.unit? g = some u) : u.legal s.cfg.guardModel = true := by
  have hg : g.toNat < 64 := unit_lt hu
  simp only [State.unit?, Vector.getElem?_eq_getElem hg, Option.some.injEq] at hu
  exact hu ▸ hI.units ⟨g.toNat, hg⟩

/-- The cycle count may rise: the log stays in the past. -/
theorem State.Inv.countCycle : ({ s with cycle := s.cycle + 1 } : State).Inv :=
  { hI with logPast := fun e he => Nat.lt_succ_of_lt (hI.logPast e he) }

theorem State.Inv.withPc {pc : Nat} (hpc : pc ≤ s.cfg.program.length) : ({ s with pc := pc } : State).Inv :=
  { hI with pc := hpc }

theorem State.Inv.advance (hpc : s.pc < s.cfg.program.length) : s.advance.Inv := hI.withPc hpc

theorem State.Inv.setReg (dst : RegId) {v : TaggedWord} (hv : v.legal = true) : (s.setReg dst v).Inv :=
  { hI with
    regs := fun r => by
      rw [reg_setReg]
      split
      · exact hv
      · exact hI.regs r }

theorem State.Inv.setUnit (g : GuardId) {u : GuardUnit} (hu : u.legal s.cfg.guardModel = true) : (s.setUnit g u).Inv :=
  { hI with
    units := fun k => by
      simp only [State.setUnit, Fin.getElem_fin, Vector.getElem_setIfInBounds]
      split
      · exact hu
      · exact hI.units k }

/-- Switching the mode of a running machine. -/
theorem State.Inv.withMode (m : Mode) (hr : s.run = .running) : ({ s with mode := m } : State).Inv :=
  { hI with trapped := fun c hc => by simp [hr] at hc }

/-- Stopping without an exception. -/
theorem State.Inv.withRun {r : RunState} (hr : r.cause = none) : ({ s with run := r } : State).Inv :=
  { hI with
    trapped := fun c hc => by subst hc; cases hr
    stopped := fun c hc => by simp only [hr] at hc; cases hc
    overflow := fun c hc => by subst hc; cases hr }

/-- A snapshot of registers that are in range. -/
theorem State.Inv.tickBoundary : s.tickBoundary.Inv :=
  { hI with
    hist := fun f hf k => by
      rcases List.mem_cons.mp hf with rfl | hf
      · exact hI.regs (BitVec.ofFin k)
      · exact hI.hist f hf k
    ticks := congrArg (· + 1) hI.ticks
    pc := Nat.zero_le _ }

/-- A legal host action on a running machine leaves every range but the pc's, which the fetch checks. -/
theorem State.Inv.withHostView {v : HostView} (hr : s.run = .running) (hv : hostLegal s.cfg v = true)
    (hpc : v.pc ≤ s.cfg.program.length) : (s.withHostView v).Inv := by
  simp only [hostLegal, Bool.and_eq_true, Vector.all_eq_true] at hv
  obtain ⟨hregs, hunits⟩ := hv
  exact { hI with
    regs := fun r => hregs r.toNat r.isLt
    units := fun k => hunits k.val k.isLt
    pc := hpc
    stopped := fun c hc => by
      rw [withHostView_run, hr] at hc
      cases hc }

/-- The host's action, with a pc inside the program put in place. -/
theorem State.Inv.hostPhase_withPc (hr : s.run = .running) {pc : Nat} (hpc : pc ≤ s.cfg.program.length) :
    ({ s.hostPhase with pc := pc } : State).Inv := by
  rcases hostPhase_cases s with h | ⟨-, v, hv, h⟩
  · rw [h]
    exact hI.withPc hpc
  · rw [h]
    exact hI.withHostView (v := { v with pc := pc }) hr hv hpc

/-- The state an instruction is fetched in. -/
theorem State.Inv.fetches {u : State} {i : Instr} (hr : s.run = .running) (hf : s.fetches u i) : u.Inv := by
  rcases fetches_cases hf with ⟨hlt, rfl⟩ | ⟨-, -, rfl⟩
  · exact hI.hostPhase_withPc hr (Nat.le_of_lt hlt)
  · exact (hI.hostPhase_withPc hr (Nat.zero_le _)).tickBoundary

/-- Stopping by an exception whose code is recorded, in the mode the stop asks for. -/
theorem State.Inv.stoppedBy {c : ExcCode} {m : Mode} {r : RunState} (hc : r.cause = some c)
    (htrap : ∀ c', r = .trappedToHost c' → m = .host)
    (hover : ∀ c', r = .emergencyStopped (.depthOverflow c') → s.depth = Config.maxExceptionDepth) :
    ({ s with exc := some c, mode := m, run := r } : State).Inv :=
  { hI with
    trapped := htrap
    stopped := fun _ hc' => hc.symm.trans hc'
    overflow := hover }

/-- Taking an exception in a running machine whose handlers lie in the program. -/
theorem State.Inv.raise (hr : s.run = .running) (hc : s.cfg.refusal = none) (c : ExcCode) {resume : Nat}
    (hres : resume ≤ s.cfg.program.length) : (s.raise c resume).Inv := by
  have hran : ∀ {c'}, s.run.cause ≠ some c' := by simp [hr, RunState.cause]
  rcases raise_cases s c resume with ⟨hd, h⟩ | ⟨hd, e, he, hcase⟩ | ⟨-, -, ⟨-, h⟩ | ⟨hm, h⟩⟩
  case inl => exact h ▸ hI.stoppedBy (m := s.mode) rfl (by simp) fun _ _ => hd
  case inr.inr.inl => exact h ▸ hI.stoppedBy (m := s.mode) rfl (by simp) (by simp)
  case inr.inr.inr => exact h ▸ hI.stoppedBy (m := s.mode) rfl (fun _ _ => hm) (by simp)
  case inr.inl =>
    rcases hcase with ⟨-, h⟩ | ⟨-, h⟩ | ⟨-, h⟩ | ⟨-, h⟩ | ⟨-, h⟩
    case inl =>
      obtain ⟨-, -, hlegal⟩ := refusal_eq_none.mp hc
      obtain ⟨-, haddr⟩ := hlegal e (handlerFor_mem he).1
      have hmax : s.depth < Config.maxExceptionDepth := Nat.lt_of_le_of_ne hI.depth hd
      rw [h]
      exact { hI with
        pc := Nat.le_of_lt haddr
        depth := hmax
        stopped := fun _ hc => absurd hc hran
        overflow := fun _ hc => by simp [hr] at hc }
    case inr.inl => exact h ▸ hI.stoppedBy (m := s.mode) rfl (by simp) (by simp)
    case inr.inr.inl =>
      rw [h]
      exact { hI with
        pc := hres
        stopped := fun _ hc => absurd hc hran }
    case inr.inr.inr.inl => exact h ▸ hI.stoppedBy (m := .host) rfl (fun _ _ => rfl) (by simp)
    case inr.inr.inr.inr => exact h ▸ hI.stoppedBy (m := s.mode) rfl (by simp) (by simp)

/-- The deadline step keeps every unit within its ranges. -/
theorem State.Inv.countDeadlines (fns : GuardFunctions) (armed : Option Nat) :
    ({ s with guards := Machine.countDeadlines fns armed s.guards } : State).Inv :=
  { hI with
    units := fun k => by
      rw [countDeadlines_get]
      split
      · exact hI.units k
      · exact unitCountDeadline_legal fns (hI.units k) }

end

/-- The word that the log shows on a port after one more event. -/
theorem lastWord_append (log : List PortEvent) (e : PortEvent) (p : PortId) :
    lastWord (log ++ [e]) p = if p = e.port then some e.word else lastWord log p := by
  by_cases h : p = e.port
  · simp [lastWord, h]
  · simp [lastWord, h, Ne.symm h]

/-- A port write, once its cycle is counted: the event is the log's last, and lies in the past. -/
theorem State.Inv.portWrite_countCycle {s : State} (hI : s.Inv) {p : PortId} (v : TaggedWord)
    (hp : p.toNat < s.cfg.nOutPorts) : ({ s.portWrite p v with cycle := s.cycle + 1 } : State).Inv :=
  { hI with
    ports := fun q => by
      rw [portWrite_outlog, lastWord_append, ← hI.ports q]
      exact port_portWrite s p q v
    logOrder := by
      rw [portWrite_outlog, List.pairwise_append]
      exact ⟨hI.logOrder, List.pairwise_singleton _ _, fun d hd e he => by
        obtain rfl := List.mem_singleton.mp he
        exact hI.logPast d hd⟩
    logPast := fun e he => by
      rcases List.mem_append.mp he with he | he
      · exact Nat.lt_succ_of_lt (hI.logPast e he)
      · obtain rfl := List.mem_singleton.mp he
        exact Nat.lt_succ_self _
    logPorts := fun e he => by
      rcases List.mem_append.mp he with he | he
      · exact hI.logPorts e he
      · obtain rfl := List.mem_singleton.mp he
        exact hp }

/-! ## The instruction and the end of its cycle -/

/-- The state `d` with the parameters and the control state of `s`. -/
def State.withControl (d s : State) : State :=
  { d with cfg := s.cfg, pc := s.pc, mode := s.mode, depth := s.depth, exc := s.exc, run := s.run }

/-- Taking an exception reads the parameters and the control state alone. -/
theorem raise_withControl (d s : State) (c : ExcCode) (r : Nat) :
    (d.withControl s).raise c r = d.withControl (s.raise c r) := by
  by_cases hd : s.depth = Config.maxExceptionDepth
  · rw [raise_of_maxDepth c r hd, raise_of_maxDepth (s := d.withControl s) c r hd]
    rfl
  · cases he : s.cfg.handlerFor c with
    | some e =>
      rw [raise_of_handler r hd he, raise_of_handler (s := d.withControl s) r hd he]
      rcases ha : e.action with _ | a
      · simp only [State.handle, ha, State.withControl]
      · cases a <;> simp only [State.handle, ha, State.withControl]
    | none =>
      rw [raise_of_noHandler r hd he, raise_of_noHandler (s := d.withControl s) r hd he]
      cases hm : s.mode <;> simp only [State.unhandled, State.withControl, hm]

/-- The cycle count may be written before or after an exception is taken. -/
theorem raise_withCycle (s : State) (n : Nat) (c : ExcCode) (r : Nat) :
    State.raise { s with cycle := n } c r = { s.raise c r with cycle := n } :=
  calc State.raise { s with cycle := n } c r
    _ = State.withControl { s with cycle := n } (s.raise c r) := raise_withControl { s with cycle := n } s c r
    _ = { s.raise c r with cycle := n } := by rw [raise_only s c r]; rfl

/-- An instruction in a running machine leaves the invariant, once its cycle is counted. -/
theorem Effect.inv_countCycle {i : Instr} {u v : State} (h : Effect i u v) (hI : u.Inv) (hr : u.run = .running)
    (hc : u.cfg.refusal = none) (hpc : u.pc < u.cfg.program.length) :
    ({ v with cycle := v.cycle + 1 } : State).Inv := by
  cases h with
  | pc => exact (hI.advance hpc).countCycle
  | reg dst w _ hlegal => exact ((hI.setReg dst (hlegal hI.wordsLegal)).advance hpc).countCycle
  | unit g w _ _ hlegal => exact ((hI.setUnit g (hlegal fun _ hu => hI.unit_legal hu)).advance hpc).countCycle
  | port src p _ hp => exact (hI.portWrite_countCycle (u.reg src) hp).advance hpc
  | mode m _ _ _ => exact ((hI.withMode m hr).advance hpc).countCycle
  | raise c => exact (hI.raise hr hc c hpc).countCycle
  | stop r hstop =>
    have hcause : r.cause = none := by rcases hstop with ⟨_, _, rfl⟩ | ⟨_, rfl⟩ <;> rfl
    exact (hI.withRun hcause).countCycle

/-- The end of the cycle keeps the invariant that the instruction left. -/
theorem endOfCycle_inv {m : Mode} {i : Instr} {v : State} (hI : ({ v with cycle := v.cycle + 1 } : State).Inv)
    (hc : v.cfg.refusal = none) : (endOfCycle m i v).Inv := by
  rcases endOfCycle_cases m i v with ⟨-, h⟩ | ⟨-, -, -, h⟩ | ⟨hr, -, -, h⟩
  · rwa [h]
  · rw [h]
    exact hI.countDeadlines _ _
  · rw [h, ← raise_withCycle]
    exact (hI.countDeadlines _ _).raise hr hc _ hI.pc

/-- Settles O13: the fetch keeps the invariant, the instruction leaves it with the cycle counted, and the deadline step keeps
it. -/
theorem stepKeepsTheInvariant : Obligations.StepKeepsTheInvariant := by
  unfold Obligations.StepKeepsTheInvariant
  intro s t hI hstep
  obtain ⟨hr, hc, u, i, v, hf, hv, rfl⟩ := step_eq_next.mp hstep
  have heffect : Effect i u v := effect_of_exec hv
  have hcu : u.cfg.refusal = none := by rw [fetches_cfg hf, hc]
  have hcv : v.cfg.refusal = none := by rw [heffect.keeps.1, hcu]
  have hru : u.run = .running := by rw [fetches_run hf, hr]
  exact endOfCycle_inv (heffect.inv_countCycle (hI.fetches hr hf) hru hcu (fetches_pc_lt hf)) hcv

end Sys2Proof.Machine
end

section
/-!
PROOFS. What a step and an instruction can and cannot change (10_state.md, 70_reset_and_hazards.md, 60_exceptions.md).
-/

namespace Sys2Proof.Machine

/-! ## What taking an exception does to mode, depth and run state -/

section
variable (s : State) (c : ExcCode) (r : Nat)

/-- An exception leaves the mode, or traps to the host. -/
theorem raise_mode :
    (s.raise c r).mode = s.mode ∨ ((s.raise c r).run = .trappedToHost c ∧ (s.raise c r).mode = .host) := by
  rcases raise_cases s c r with
    ⟨-, h⟩ | ⟨-, _, -, ⟨-, h⟩ | ⟨-, h⟩ | ⟨-, h⟩ | ⟨-, h⟩ | ⟨-, h⟩⟩ | ⟨-, -, ⟨-, h⟩ | ⟨-, h⟩⟩
  all_goals simp [h]

/-- An exception leaves the depth, or raises it by one from below 8. -/
theorem raise_depth :
    (s.raise c r).depth = s.depth ∨ ((s.raise c r).depth = s.depth + 1 ∧ s.depth ≠ Config.maxExceptionDepth) := by
  rcases raise_cases s c r with
    ⟨-, h⟩ | ⟨hd, _, -, ⟨-, h⟩ | ⟨-, h⟩ | ⟨-, h⟩ | ⟨-, h⟩ | ⟨-, h⟩⟩ | ⟨-, -, ⟨-, h⟩ | ⟨-, h⟩⟩
  all_goals simp [*]

/-- An exception leaves the run state, or stops the machine and keeps its code. -/
theorem raise_run :
    (s.raise c r).run = s.run ∨ ((s.raise c r).run.cause = some c ∧ (s.raise c r).exc = some c) := by
  rcases raise_cases s c r with
    ⟨-, h⟩ | ⟨-, _, -, ⟨-, h⟩ | ⟨-, h⟩ | ⟨-, h⟩ | ⟨-, h⟩ | ⟨-, h⟩⟩ | ⟨-, -, ⟨-, h⟩ | ⟨-, h⟩⟩
  all_goals simp [h, RunState.cause]

/-- Where the pc goes: the machine stops at the pc, goes on at the resume point, or enters a handler, one level deeper. -/
theorem raise_pc (hr : s.run = .running) :
    ((s.raise c r).run ≠ .running ∧ (s.raise c r).pc = s.pc) ∨
    ((s.raise c r).run = .running ∧ (s.raise c r).pc = r) ∨
    ((s.raise c r).run = .running ∧ (s.raise c r).depth = s.depth + 1 ∧
      ∃ e ∈ s.cfg.handlers, e.action = none ∧ (s.raise c r).pc = e.address) := by
  rcases raise_cases s c r with
    ⟨-, h⟩ | ⟨-, e, he, ⟨ha, h⟩ | ⟨-, h⟩ | ⟨-, h⟩ | ⟨-, h⟩ | ⟨-, h⟩⟩ | ⟨-, -, ⟨-, h⟩ | ⟨-, h⟩⟩
  case inr.inl.inl => exact .inr (.inr ⟨by simp [h, hr], by simp [h], e, (handlerFor_mem he).1, ha, by simp [h]⟩)
  case inr.inl.inr.inr.inl => exact .inr (.inl ⟨by simp [h, hr], by simp [h]⟩)
  all_goals exact .inl ⟨by simp [h], by simp [h]⟩

end

/-! ## What the end of the cycle does to mode, depth and run state -/

section
variable (m : Mode) (i : Instr) (v : State)

theorem endOfCycle_mode :
    (endOfCycle m i v).mode = v.mode ∨
      ((endOfCycle m i v).run = .trappedToHost .deadlineMiss ∧ (endOfCycle m i v).mode = .host) := by
  rcases endOfCycle_cases m i v with ⟨-, h⟩ | ⟨-, -, -, h⟩ | ⟨-, -, -, h⟩
  · simp [h]
  · simp [h]
  · rw [h]
    exact raise_mode _ _ _

theorem endOfCycle_depth :
    (endOfCycle m i v).depth = v.depth ∨
      ((endOfCycle m i v).depth = v.depth + 1 ∧ v.depth ≠ Config.maxExceptionDepth) := by
  rcases endOfCycle_cases m i v with ⟨-, h⟩ | ⟨-, -, -, h⟩ | ⟨-, -, -, h⟩
  · simp [h]
  · simp [h]
  · rw [h]
    exact raise_depth _ _ _

theorem endOfCycle_run :
    (endOfCycle m i v).run = v.run ∨
      ∃ c, (endOfCycle m i v).run.cause = some c ∧ (endOfCycle m i v).exc = some c := by
  rcases endOfCycle_cases m i v with ⟨-, h⟩ | ⟨-, -, -, h⟩ | ⟨-, -, -, h⟩
  · simp [h]
  · simp [h]
  · rw [h]
    exact (raise_run _ _ _).imp_right fun hc => ⟨_, hc⟩

end

/-! ## Every step -/

/-- Settles O14: no part of a cycle writes the parameters, and the end of the cycle counts it. -/
theorem stepKeepsTheProgramAndCountsOneCycle : Obligations.StepKeepsTheProgramAndCountsOneCycle := by
  unfold Obligations.StepKeepsTheProgramAndCountsOneCycle
  intro s t hstep
  obtain ⟨-, -, u, i, v, hf, hv, rfl⟩ := step_eq_next.mp hstep
  obtain ⟨hcfg, hcycle, -, -⟩ := (effect_of_exec hv).keeps
  rw [endOfCycle_cfg, hcfg, fetches_cfg hf, endOfCycle_cycle, hcycle, fetches_cycle hf]
  exact ⟨rfl, rfl⟩

/-- An instruction leaves the depth, or raises it by one from below 8. -/
theorem Effect.depth {i : Instr} {s t : State} (h : Effect i s t) :
    t.depth = s.depth ∨ (t.depth = s.depth + 1 ∧ s.depth ≠ Config.maxExceptionDepth) := by
  cases h with
  | raise c => exact raise_depth s c _
  | pc | reg | unit | port | mode | stop => exact .inl rfl

/-- Settles O15: the instruction and the deadline step take at most one exception each, and none is taken deeper than 8. -/
theorem depthNeverFallsAndStaysBounded : Obligations.DepthNeverFallsAndStaysBounded := by
  unfold Obligations.DepthNeverFallsAndStaysBounded
  intro s t hstep
  obtain ⟨-, -, u, i, v, hf, hv, rfl⟩ := step_eq_next.mp hstep
  have hfetch : u.depth = s.depth := fetches_depth hf
  have hinstr := (effect_of_exec hv).depth
  have hend := endOfCycle_depth u.mode i v
  simp only [Config.maxExceptionDepth] at hinstr hend
  omega

/-- Two states with the same output ports show the same word on each. -/
theorem port_of_outport {s t : State} (h : t.outport = s.outport) (p : PortId) : t.port p = s.port p := by
  simp only [State.port, h]

/-- Settles O16: of the effects of an instruction only the port write of STORE_OUTPUT touches ports and log, and the rest of
the cycle touches neither. -/
theorem portEventsComeOnlyFromStoreOutput : Obligations.PortEventsComeOnlyFromStoreOutput := by
  unfold Obligations.PortEventsComeOnlyFromStoreOutput
  intro s t hstep
  obtain ⟨-, -, u, i, v, hf, hv, rfl⟩ := step_eq_next.mp hstep
  have houtport : u.outport = s.outport := fetches_outport hf
  have houtlog : u.outlog = s.outlog := fetches_outlog hf
  simp only [endOfCycle_outlog, endOfCycle_outport]
  cases effect_of_exec hv with
  | port src p hi _ =>
    subst hi
    refine .inr ⟨u, src, p, hf, ?log, ?written, fun q hq => ?others⟩
    case log => rw [advance_outlog, portWrite_outlog, houtlog, fetches_cycle hf]
    all_goals rw [port_of_outport (endOfCycle_outport ..), advance_port, port_portWrite]
    case written => rw [if_pos rfl]
    case others => rw [if_neg hq, port_of_outport houtport]
  | raise c => exact .inl (by simp [houtport, houtlog])
  | pc | reg | unit | mode | stop => exact .inl ⟨houtlog, houtport⟩

/-- Settles O17: after the fetch nothing touches history and tick count, and the fetch adds to them at a wrap alone. -/
theorem historyGrowsOnlyAtATickBoundary : Obligations.HistoryGrowsOnlyAtATickBoundary := by
  unfold Obligations.HistoryGrowsOnlyAtATickBoundary
  intro s t hstep
  obtain ⟨-, -, u, i, v, hf, hv, rfl⟩ := step_eq_next.mp hstep
  obtain ⟨-, -, htick, hhist⟩ := (effect_of_exec hv).keeps
  rw [endOfCycle_hist, endOfCycle_tick, hhist, htick]
  rcases fetches_cases hf with ⟨-, rfl⟩ | ⟨hpc, hwrap, rfl⟩
  · exact .inl ⟨hostPhase_hist s, hostPhase_tick s⟩
  · exact .inr ⟨hwrap, hpc, by simp, by simp⟩

/-- An instruction changes the mode by MODE_SWITCH, or by an exception that traps to the host. -/
theorem Effect.mode_cases {i : Instr} {s t : State} (h : Effect i s t) :
    t.mode = s.mode ∨ (∃ c, t.run = .trappedToHost c ∧ t.mode = .host) ∨
      ∃ target, i = .modeSwitch target ∧ (t.mode = .reflex → Config.quiescent s.cycle = true) := by
  cases h with
  | raise c => exact (raise_mode s c _).imp_right fun htrap => .inl ⟨c, htrap⟩
  | mode m target hi hq => exact .inr (.inr ⟨target, hi, hq⟩)
  | pc | reg | unit | port | stop => exact .inl rfl

/-- Settles O18: the fetch keeps the mode; the instruction and the deadline step change it in the two ways alone, and a
machine that trapped takes no deadline step. -/
theorem modeChangesOnlyByModeSwitchOrTrapToHost : Obligations.ModeChangesOnlyByModeSwitchOrTrapToHost := by
  unfold Obligations.ModeChangesOnlyByModeSwitchOrTrapToHost
  intro s t hstep hne
  obtain ⟨-, -, u, i, v, hf, hv, rfl⟩ := step_eq_next.mp hstep
  rcases endOfCycle_mode u.mode i v with hend | htrap
  case inr => exact .inl ⟨_, htrap⟩
  case inl =>
    rw [hend] at hne ⊢
    rcases (effect_of_exec hv).mode_cases with hsame | ⟨c, hrun, hmode⟩ | ⟨target, rfl, hq⟩
    · exact absurd (hsame.trans (fetches_mode hf)) hne
    · refine .inl ⟨c, ?_, hmode⟩
      rw [endOfCycle_of_stopped _ _ _ (by simp [hrun])]
      exact hrun
    · rw [fetches_cycle hf] at hq
      exact .inr ⟨u, target, hf, hq⟩

/-- Settles O21: the machine was running, so the instruction stopped it, or the exception of the deadline step did. -/
theorem machineStopsOnlyInTheListedWays : Obligations.MachineStopsOnlyInTheListedWays := by
  unfold Obligations.MachineStopsOnlyInTheListedWays
  intro s t hstep hstopped
  obtain ⟨hr, -, u, i, v, hf, hv, rfl⟩ := step_eq_next.mp hstep
  have hru : u.run = .running := by rw [fetches_run hf, hr]
  rcases endOfCycle_run u.mode i v with hend | hcause
  case inr => exact .inr (.inr hcause)
  case inl =>
    rw [hend] at hstopped
    rw [endOfCycle_of_stopped _ _ _ hstopped]
    cases effect_of_exec hv with
    | stop r hstop =>
      rcases hstop with ⟨n, rfl, rfl⟩ | ⟨rfl, rfl⟩
      · exact .inl ⟨u, n, hf, rfl, rfl⟩
      · exact .inr (.inl ⟨u, hf, rfl, rfl⟩)
    | raise c =>
      rcases raise_run u c (u.pc + 1) with hsame | hcause
      · exact absurd (hsame.trans hru) hstopped
      · exact .inr (.inr ⟨c, hcause⟩)
    | pc | reg | unit | port | mode => exact absurd hru hstopped

/-! ## Every instruction -/

/-- Settles O19: each effect names its writers. -/
theorem onlyTheListedInstructionsWrite : Obligations.OnlyTheListedInstructionsWrite := by
  unfold Obligations.OnlyTheListedInstructionsWrite
  intro i s t h
  cases effect_of_exec h with
  | reg dst v hwriter _ => exact ⟨fun _ => hwriter, by simp, by simp⟩
  | unit g u hwriter _ _ => exact ⟨by simp, fun _ => hwriter, by simp⟩
  | port src p hi _ =>
    subst hi
    exact ⟨by simp, by simp, fun _ => rfl⟩
  | pc | mode | raise | stop => simp

/-- Settles O20: a completing instruction advances, HALT and EMERGENCY_STOP stop in place, and an exception does what
`raise_pc` lists with the next pc as its resume point. -/
theorem pcAdvancesUnlessStoppedOrTransferred : Obligations.PcAdvancesUnlessStoppedOrTransferred := by
  unfold Obligations.PcAdvancesUnlessStoppedOrTransferred
  intro i s t hr h
  cases effect_of_exec h with
  | raise c =>
    rcases raise_pc s c (s.pc + 1) hr with hstop | hresume | henter
    · exact .inr (.inl hstop)
    · exact .inl hresume
    · exact .inr (.inr henter)
  | stop r hstop =>
    refine .inr (.inl ⟨?_, rfl⟩)
    rcases hstop with ⟨_, -, rfl⟩ | ⟨-, rfl⟩ <;> simp
  | pc | reg | unit | port | mode => exact .inl ⟨hr, rfl⟩

/-- Settles O26: of the effects of an instruction only an exception touches exc and depth, and it touches control state
alone. -/
theorem exceptionsArePrecise : Obligations.ExceptionsArePrecise := by
  unfold Obligations.ExceptionsArePrecise
  intro i s t h
  cases effect_of_exec h with
  | raise c => exact .inr ⟨c, rfl, raise_only s c _, (raise_mode s c _).imp_right And.left⟩
  | pc | reg | unit | port | mode | stop => exact .inl ⟨rfl, rfl⟩

end Sys2Proof.Machine
end

section
/-!
PROOFS. The parts of a cycle around the instruction, and the state after reset (70_reset_and_hazards.md).
-/

namespace Sys2Proof.Machine

/-! ## The step, part by part -/

/-- Ill-formed parameters stop a running machine before anything else (93_implementation_defined.md U28, U29). -/
theorem step_of_refusal {s : State} {r : Refusal} (hr : s.run = .running) (hc : s.cfg.refusal = some r) :
    step s = .refused r := by
  simp only [step, hr, if_true, hc]

/-- A running machine with its parameters in place goes on to the fetch, or faults at the end of the program. -/
theorem step_of_endOfProgram {s u : State} (hr : s.run = .running) (hc : s.cfg.refusal = none)
    (hu : s.hostPhase.endOfProgram = some u) : step s = fetchAndExecute u := by
  simp only [step, hr, if_true, hc, hu]

theorem step_of_endOfProgram_none {s : State} (hr : s.run = .running) (hc : s.cfg.refusal = none)
    (hu : s.hostPhase.endOfProgram = none) : step s = .fault .fetchOutOfProgram := by
  simp only [step, hr, if_true, hc, hu]

theorem endOfProgram_of_lt {s : State} (h : s.pc < s.cfg.program.length) : s.endOfProgram = some s :=
  endOfProgram_eq_some.mpr (.inl ⟨h, rfl⟩)

theorem endOfProgram_of_wrap {s : State} (h : s.cfg.program.length ≤ s.pc) (hw : s.cfg.endOfProgram = .wrap) :
    s.endOfProgram = some s.tickBoundary :=
  endOfProgram_eq_some.mpr (.inr ⟨h, hw, rfl⟩)

theorem endOfProgram_of_fault {s : State} (h : s.cfg.program.length ≤ s.pc) (hf : s.cfg.endOfProgram = .fault) :
    s.endOfProgram = none := by
  simp [State.endOfProgram, Nat.not_lt.mpr h, hf]

/-- A word that does not decode has no meaning (30_encoding.md R72). -/
theorem fetchAndExecute_of_error {s : State} {w : Word} {e : Illegal} (hw : s.fetchWord = some w)
    (he : decode w = .error e) : fetchAndExecute s = .refused (.illegalWord e) := by
  simp only [fetchAndExecute, hw, he]

/-- The rest of a cycle once its instruction is decoded. -/
theorem fetchAndExecute_of_ok {s : State} {w : Word} {i : Instr} (hw : s.fetchWord = some w) (hi : decode w = .ok i) :
    fetchAndExecute s = andThen (exec i s) fun t => .next (endOfCycle s.mode i t) := by
  cases hexec : exec i s
  all_goals simp only [fetchAndExecute, hw, hi, hexec, andThen]

theorem fetchAndExecute_of_noWord {s : State} (hw : s.fetchWord = none) :
    fetchAndExecute s = .fault .fetchOutOfProgram := by
  simp only [fetchAndExecute, hw]

/-- Settles O6: the fetch fixes the word and its instruction; in reflex mode with the pc in the program nothing happens
before it. -/
theorem stepRunsTheDecodedInstruction : Obligations.StepRunsTheDecodedInstruction := by
  unfold Obligations.StepRunsTheDecodedInstruction
  refine ⟨?fetched, ?reflex⟩
  case fetched =>
    rintro s u i hr hc ⟨hu, w, hw, hi⟩
    rw [step_of_endOfProgram hr hc hu, fetchAndExecute_of_ok hw hi]
    cases exec i u
    all_goals rfl
  case reflex =>
    intro s w hr hc hm hw
    obtain ⟨hpc, -⟩ := List.getElem?_eq_some_iff.mp hw
    have hu : s.hostPhase.endOfProgram = some s := by rw [hostPhase_of_reflex hm, endOfProgram_of_lt hpc]
    refine ⟨fun i hi => ⟨hu, w, hw, hi⟩, fun e he => ?_⟩
    rw [step_of_endOfProgram hr hc hu, fetchAndExecute_of_error hw he]

/-- Settles O8: the machine checks its parameters before everything else. -/
theorem illFormedParametersRefused : Obligations.IllFormedParametersRefused := by
  unfold Obligations.IllFormedParametersRefused
  intro s hr
  refine ⟨fun hprog => ?program, fun hne hlen hbad => ?handlers, fun hne hlen h16 hall => ?accepted⟩
  case program =>
    have hprog : s.cfg.program.length = 0 ∨ Config.maxInstructions < s.cfg.program.length := by
      simpa [Config.maxInstructions] using hprog
    exact step_of_refusal hr (if_pos hprog)
  case handlers =>
    refine step_of_refusal hr ?_
    have hprog : ¬ (s.cfg.program.length = 0 ∨ Config.maxInstructions < s.cfg.program.length) := by
      simpa [Config.maxInstructions, hne] using hlen
    have htable : Config.maxTrapHandlers < s.cfg.handlers.length ∨
        ¬ s.cfg.handlers.all (HandlerEntry.legal s.cfg.program.length) := by
      refine hbad.imp_right fun ⟨e, he, hillegal⟩ hall => ?_
      have hlegal := List.all_eq_true.mp hall e he
      simp only [HandlerEntry.legal, Bool.and_eq_true, decide_eq_true_eq] at hlegal
      omega
    simp only [Params.refusal, if_neg hprog, if_pos htable]
  case accepted =>
    have hlen0 : s.cfg.program.length ≠ 0 := by simpa using hne
    exact refusal_eq_none.mpr ⟨⟨hlen0, hlen⟩, h16, fun e he => and_assoc.mpr (hall e he)⟩

/-- Settles O9: in reflex mode the end of the program is the first thing of the cycle; after the tick boundary the pc is in
the program again. -/
theorem endOfProgramFaultsOrWraps : Obligations.EndOfProgramFaultsOrWraps := by
  unfold Obligations.EndOfProgramFaultsOrWraps
  intro s hr hc hm hpc
  refine ⟨fun hfault => ?_, fun hwrap => ?_⟩
  · refine step_of_endOfProgram_none hr hc ?_
    rw [hostPhase_of_reflex hm, endOfProgram_of_fault hpc hfault]
  · have hnonempty : 0 < s.cfg.program.length := by
      obtain ⟨⟨hne, -⟩, -⟩ := refusal_eq_none.mp hc
      exact Nat.pos_of_ne_zero hne
    calc step s
      _ = fetchAndExecute s.tickBoundary := by
        refine step_of_endOfProgram hr hc ?_
        rw [hostPhase_of_reflex hm, endOfProgram_of_wrap hpc hwrap]
      _ = step s.tickBoundary := by
        refine (step_of_endOfProgram (s := s.tickBoundary) hr hc ?_).symm
        rw [hostPhase_of_reflex (s := s.tickBoundary) hm, endOfProgram_of_lt hnonempty]

/-- Settles O10: the host's phase is the identity, or puts a host view's four fields in place. -/
theorem hostActsOnlyInHostMode : Obligations.HostActsOnlyInHostMode := by
  unfold Obligations.HostActsOnlyInHostMode
  intro s
  refine ⟨hostPhase_of_reflex, ?_⟩
  rcases hostPhase_cases s with h | ⟨-, v, -, h⟩
  · exact ⟨s.regs, s.guards, s.exc, s.pc, h⟩
  · exact ⟨v.regs, v.guards, v.exc, v.pc, h⟩

/-! ## Reset -/

/-- Settles O11: the reset values of registers, units and ports, and the plain fields. -/
theorem resetLeavesTheStateOfTheResetTable : Obligations.ResetLeavesTheStateOfTheResetTable := by
  unfold Obligations.ResetLeavesTheStateOfTheResetTable
  refine ⟨rfl, fun cfg => ⟨rfl, rfl, rfl, rfl, rfl, rfl, rfl, rfl, rfl, fun r => ?regs, fun g hg => ?units, ?ports⟩⟩
  case regs =>
    rw [resetWith_reg]
    exact ⟨rfl, rfl⟩
  case units => exact ⟨resetUnit, resetWith_unit cfg g (by omega), rfl, rfl⟩
  case ports => exact resetWith_port cfg

/-- A register after reset has a width of 1 to 64, whatever the draw. -/
theorem resetWord_legal (r : RegId) : (resetWord r).legal = true := by
  have := (Config.resetWidth r).isLt
  simp only [legal_iff, resetWord]
  omega

/-- A reset state satisfies the invariant when its port types are legal. -/
theorem resetWith_inv {cfg : Params} (h : ∀ e ∈ cfg.inPortTypes, e.2.legal = true) : (State.resetWith cfg).Inv where
  portTypes := h
  regs r := by rw [resetWith_reg]; exact resetWord_legal r
  hist f hf := absurd hf List.not_mem_nil
  ticks := rfl
  units k := by
    simp only [State.resetWith, Fin.getElem_fin, Vector.getElem_replicate]
    rfl
  pc := Nat.zero_le _
  depth := Nat.zero_le _
  ports p := resetWith_port cfg p
  logOrder := List.Pairwise.nil
  logPast e he := absurd he List.not_mem_nil
  logPorts e he := absurd he List.not_mem_nil
  trapped c hc := by cases hc
  stopped c hc := by cases hc
  overflow c hc := by cases hc

/-- Settles O12: `resetWith_inv`; the default parameters type no port. -/
theorem resetSatisfiesTheInvariant : Obligations.ResetSatisfiesTheInvariant := by
  unfold Obligations.ResetSatisfiesTheInvariant
  exact ⟨resetWith_inv fun e he => absurd he List.not_mem_nil, fun _ => resetWith_inv⟩

/-! ## Exception entry (60_exceptions.md) -/

/-- Settles O25: the handler found decides by its action; without one host mode traps to the host. -/
theorem exceptionEntryByAction : Obligations.ExceptionEntryByAction := by
  unfold Obligations.ExceptionEntryByAction
  intro s c resume hd
  refine ⟨fun e he => ?_, fun he hm => raise_of_noHandler_host resume hd he hm⟩
  rw [raise_of_handler resume hd he]
  rcases ha : e.action with _ | a
  · simp only [State.handle, ha]
  · cases a <;> simp only [State.handle, ha]

end Sys2Proof.Machine
end

section
/-!
PROOFS. One rule per instruction and case, so that no later proof unfolds a meaning: the Register, ALU and Temporal tiers
(40_register_tier.md to 42_temporal_tier.md), then the others.
-/

namespace Sys2Proof.Machine

/-! ## Numbers of named operand values -/

/-- The operations in the order of their numbers (30_encoding.md R81). -/
def aluOps : List AluOp := [.add, .sub, .mul, .and, .or, .xor, .shl, .shr, .eq, .ne, .lt, .le, .gt, .ge]

theorem aluOp_ofCode : ∀ op : BitVec 4, AluOp.ofCode op = aluOps[op.toNat]? := by decide

/-- The assigned operation numbers name an operation (30_encoding.md R81, R83). -/
theorem aluOp_of_le {op : BitVec 4} (h : op.toNat ≤ 13) : ∃ o, AluOp.ofCode op = some o ∧ aluOps[op.toNat]? = some o := by
  have hlt : op.toNat < aluOps.length := Nat.lt_succ_of_le h
  refine ⟨aluOps[op.toNat], ?_, List.getElem?_eq_getElem hlt⟩
  rw [aluOp_ofCode, List.getElem?_eq_getElem hlt]

theorem aluOp_ofCode_eq_none : ∀ op : BitVec 4, isAluOp op = false → AluOp.ofCode op = none := by decide

theorem aluUnaryOp_ofCode_isSome : ∀ op : BitVec 2, isAluUnaryOp op = true → (AluUnaryOp.ofCode op).isSome := by decide

theorem aluUnaryOp_ofCode_eq_none : ∀ op : BitVec 2, isAluUnaryOp op = false → AluUnaryOp.ofCode op = none := by decide

theorem tag_ofCode_eq_none : ∀ t : BitVec 4, isTagCode t = false → Tag.ofCode t = none := by decide

theorem tag_ofCode_code (t : Tag) : Tag.ofCode t.code = some t := by cases t <;> rfl

theorem excCode_ofNumber_number (c : ExcCode) : ExcCode.ofNumber c.number = some c := by cases c <;> rfl

theorem excCode_ofNumber_isSome : ∀ n : Nat, (ExcCode.ofNumber n).isSome = isExcCode n
  | 0 | 1 | 2 | 3 | 4 | 5 | 6 => rfl
  | n + 7 => by
    have hlarge : ¬ n + 7 ≤ 6 := by omega
    simp [ExcCode.ofNumber, isExcCode, hlarge]

theorem mode_ofNumber_eq_none {n : Nat} (h : 1 < n) : Mode.ofNumber n = none := by
  unfold Mode.ofNumber
  split
  case h_3 => rfl
  all_goals omega

/-! ## The words that instructions build -/

/-- A word built from a natural number (10_state.md R18). -/
theorem build_natCast (tag : Tag) (w n : Nat) (p : Prov) :
    TaggedWord.build tag w n p =
      { value := BitVec.ofNat 64 (n % 2 ^ w), tag := tag, w := if tag = .bool then 1 else w, prov := p } := by
  have hmod : ((n : Int) % 2 ^ w).toNat = n % 2 ^ w := by
    rw [← Nat.cast_ofNat, ← Int.natCast_pow, ← Int.natCast_emod, Int.toNat_natCast]
  cases tag <;> simp [TaggedWord.build, hmod]

/-- ALU_IMM's second operand is the immediate, zero-extended (41_alu_tier.md R111). -/
theorem immOperand_eq (imm : BitVec 6) :
    immOperand imm = { value := imm.setWidth 64, tag := .unsigned, w := 64, prov := .literal } := by
  rw [immOperand, build_natCast]
  have hlt := imm.isLt
  rw [Nat.mod_eq_of_lt (by omega), BitVec.ofNat_toNat]
  rfl

/-- TAG_READ's result is the tag's code, zero-extended (46_tagged_tier.md R202). -/
theorem build_tagCode (code : BitVec 4) :
    TaggedWord.build .unsigned 4 code.toNat .computed =
      { value := code.setWidth 64, tag := .unsigned, w := 4, prov := .computed } := by
  rw [build_natCast, Nat.mod_eq_of_lt code.isLt, BitVec.ofNat_toNat]
  rfl

/-! ## Guard operands that fail their check (42_temporal_tier.md R140) -/

theorem withConfigured_of_none {g : GuardId} {s : State} (k : GuardUnit → Result) (h : s.unit? g = none) :
    withConfigured g s k = .refused .guardIndexOutOfBounds := by
  simp [withConfigured, h]

theorem withSr_of_none {g : GuardId} {s : State} (k : RegId → Nat → List Bool → Option Nat → Result)
    (h : s.unit? g = none) : withSr g s k = .refused .guardIndexOutOfBounds := by
  simp [withSr, h]

theorem withCtr_of_none {g : GuardId} {s : State} (k : RegId → Nat → Nat → Option Nat → Result)
    (h : s.unit? g = none) : withCtr g s k = .refused .guardIndexOutOfBounds := by
  simp [withCtr, h]

theorem withConfigured_of_unconfigured {g : GuardId} {s : State} {u : GuardUnit} (k : GuardUnit → Result)
    (h : s.unit? g = some u) (hu : u.kind = .unconfigured) : withConfigured g s k = .refused .guardNotConfigured := by
  cases u
  case unconfigured => simp [withConfigured, h]
  all_goals cases hu

theorem withSr_of_otherKind {g : GuardId} {s : State} {u : GuardUnit}
    (k : RegId → Nat → List Bool → Option Nat → Result) (h : s.unit? g = some u) (hu : u.kind ≠ .sr) :
    withSr g s k = .refused .guardNotConfigured := by
  cases u
  case sr => exact absurd rfl hu
  all_goals simp [withSr, h]

theorem withCtr_of_otherKind {g : GuardId} {s : State} {u : GuardUnit}
    (k : RegId → Nat → Nat → Option Nat → Result) (h : s.unit? g = some u) (hu : u.kind ≠ .ctr) :
    withCtr g s k = .refused .guardNotConfigured := by
  cases u
  case ctr => exact absurd rfl hu
  all_goals simp [withCtr, h]

/-- A GuardId of 64 to 255 names no unit (10_state.md R22). -/
theorem unit_eq_none_of_not_isGuard {g : GuardId} (s : State) (h : isGuard g = false) : s.unit? g = none := by
  simp only [isGuard, decide_eq_false_iff_not] at h
  exact (unit_eq_none_iff s g).mpr (by omega)

section
variable {s : State}

/-! ## Register tier, opcodes 0 to 3 -/

theorem exec_loadInput {port : PortId} (dst : RegId) (h : port.toNat < s.cfg.nInPorts) :
    exec (.loadInput dst port) s =
      writeReg dst { value := Config.portRead s.cycle port, tag := (s.cfg.portType port).tag,
                     w := (s.cfg.portType port).w, prov := .input port } s :=
  if_neg (Nat.not_le.mpr h)

theorem exec_loadInput_of_ge {port : PortId} (dst : RegId) (h : s.cfg.nInPorts ≤ port.toNat) :
    exec (.loadInput dst port) s = .refused .portOutOfRange :=
  if_pos h

theorem exec_storeOutput {port : PortId} (src : RegId) (h : port.toNat < s.cfg.nOutPorts) :
    exec (.storeOutput src port) s = checkedRead src s fun v => complete (s.portWrite port v) :=
  if_neg (Nat.not_le.mpr h)

theorem exec_storeOutput_of_ge {port : PortId} (src : RegId) (h : s.cfg.nOutPorts ≤ port.toNat) :
    exec (.storeOutput src port) s = .refused .portOutOfRange :=
  if_pos h

theorem exec_mov (dst src : RegId) : exec (.mov dst src) s = checkedRead src s fun v => writeReg dst v s := rfl

theorem exec_loadImm {width : BitVec 8} (dst : RegId) (value : BitVec 10) (h1 : 1 ≤ width.toNat)
    (h64 : width.toNat ≤ 64) :
    exec (.loadImm dst value width) s =
      writeReg dst (TaggedWord.build .unsigned width.toNat value.toNat .literal) s :=
  if_neg (by omega)

theorem exec_loadImm_of_badWidth {width : BitVec 8} (dst : RegId) (value : BitVec 10)
    (h : width.toNat = 0 ∨ 64 < width.toNat) : exec (.loadImm dst value width) s = .refused .badWidth :=
  if_pos h

/-! ## ALU tier, opcodes 4 to 6 -/

theorem exec_alu {op : BitVec 4} {o : AluOp} (dst a b : RegId) (h : AluOp.ofCode op = some o) :
    exec (.alu op dst a b) s =
      checkedRead a s fun va => checkedRead b s fun vb => writeReg dst (s.cfg.aluBinary o va vb) s := by
  simp only [exec, execAlu, h]

theorem exec_alu_of_reserved {op : BitVec 4} (dst a b : RegId) (h : AluOp.ofCode op = none) :
    exec (.alu op dst a b) s = .refused .reservedAluOp := by
  simp only [exec, execAlu, h]

theorem exec_aluImm {op : BitVec 4} {o : AluOp} (dst a : RegId) (imm : BitVec 6) (h : AluOp.ofCode op = some o) :
    exec (.aluImm op dst a imm) s =
      checkedRead a s fun va => writeReg dst (s.cfg.aluBinary o va (immOperand imm)) s := by
  simp only [exec, execAluImm, h]

theorem exec_aluImm_of_reserved {op : BitVec 4} (dst a : RegId) (imm : BitVec 6) (h : AluOp.ofCode op = none) :
    exec (.aluImm op dst a imm) s = .refused .reservedAluOp := by
  simp only [exec, execAluImm, h]

theorem exec_aluUnary {op : BitVec 2} {o : AluUnaryOp} (dst src : RegId) (h : AluUnaryOp.ofCode op = some o) :
    exec (.aluUnary op dst src) s = checkedRead src s fun va => writeReg dst (s.cfg.aluUnary o va) s := by
  simp only [exec, execAluUnary, h]

theorem exec_aluUnary_of_reserved {op : BitVec 2} (dst src : RegId) (h : AluUnaryOp.ofCode op = none) :
    exec (.aluUnary op dst src) s = .refused .reservedAluOp := by
  simp only [exec, execAluUnary, h]

/-! ## Temporal tier, opcodes 7 to 16 -/

theorem exec_srInit {g : GuardId} {n : BitVec 8} {u : GuardUnit} (cond : RegId) (hu : s.unit? g = some u)
    (hn : n.toNat ≠ 0) :
    exec (.srInit g n cond) s =
      complete (s.setUnit g (.sr cond n.toNat (s.cfg.guardFns.srInit n.toNat) u.deadline)) := by
  simp only [exec, execSrInit, hu, if_neg hn]

theorem exec_srInit_of_zero {g : GuardId} {u : GuardUnit} (cond : RegId) (hu : s.unit? g = some u) :
    exec (.srInit g 0 cond) s = .refused .zeroLengthGuard := by
  simp only [exec, execSrInit, hu]
  rfl

theorem exec_srInit_of_none {g : GuardId} (n : BitVec 8) (cond : RegId) (hu : s.unit? g = none) :
    exec (.srInit g n cond) s = .refused .guardIndexOutOfBounds := by
  simp only [exec, execSrInit, hu]

theorem exec_ctrInit {g : GuardId} {n : BitVec 8} {u : GuardUnit} (cond : RegId) (hu : s.unit? g = some u)
    (hn : n.toNat ≠ 0) :
    exec (.ctrInit g n cond) s =
      complete (s.setUnit g (.ctr cond n.toNat (s.cfg.guardFns.ctrInit n.toNat) u.deadline)) := by
  simp only [exec, execCtrInit, hu, if_neg hn]

theorem exec_ctrInit_of_zero {g : GuardId} {u : GuardUnit} (cond : RegId) (hu : s.unit? g = some u) :
    exec (.ctrInit g 0 cond) s = .refused .zeroLengthGuard := by
  simp only [exec, execCtrInit, hu]
  rfl

theorem exec_ctrInit_of_none {g : GuardId} (n : BitVec 8) (cond : RegId) (hu : s.unit? g = none) :
    exec (.ctrInit g n cond) s = .refused .guardIndexOutOfBounds := by
  simp only [exec, execCtrInit, hu]

/-- In reflex mode the tick samples the condition register (42_temporal_tier.md R143). -/
theorem exec_srTick_reflex {g : GuardId} {cond n bits dl} (hu : s.unit? g = some (.sr cond n bits dl))
    (hm : s.mode = .reflex) :
    exec (.srTick g) s =
      checkedRead cond s fun v => complete (s.setUnit g (.sr cond n (s.cfg.guardFns.srTick v.truth n bits) dl)) := by
  simp only [exec, execSrTick, withSr_of_unit _ hu, hm]

/-- In host mode the tick does nothing (42_temporal_tier.md R150). -/
theorem exec_srTick_host {g : GuardId} {cond n bits dl} (hu : s.unit? g = some (.sr cond n bits dl))
    (hm : s.mode = .host) : exec (.srTick g) s = complete s := by
  simp only [exec, execSrTick, withSr_of_unit _ hu, hm]

theorem exec_ctrTick_reflex {g : GuardId} {cond n count dl} (hu : s.unit? g = some (.ctr cond n count dl))
    (hm : s.mode = .reflex) :
    exec (.ctrTick g) s =
      checkedRead cond s fun v => complete (s.setUnit g (.ctr cond n (s.cfg.guardFns.ctrTick v.truth n count) dl)) := by
  simp only [exec, execCtrTick, withCtr_of_unit _ hu, hm]

theorem exec_ctrTick_host {g : GuardId} {cond n count dl} (hu : s.unit? g = some (.ctr cond n count dl))
    (hm : s.mode = .host) : exec (.ctrTick g) s = complete s := by
  simp only [exec, execCtrTick, withCtr_of_unit _ hu, hm]

theorem exec_srQuery {g : GuardId} {cond n bits dl} (dst : RegId) (hu : s.unit? g = some (.sr cond n bits dl)) :
    exec (.srQuery dst g) s = writeReg dst (TaggedWord.ofBool (s.cfg.guardFns.srActive n bits)) s :=
  withSr_of_unit _ hu

theorem exec_ctrQuery {g : GuardId} {cond n count dl} (dst : RegId) (hu : s.unit? g = some (.ctr cond n count dl)) :
    exec (.ctrQuery dst g) s = writeReg dst (TaggedWord.ofBool (s.cfg.guardFns.ctrActive n count)) s :=
  withCtr_of_unit _ hu

theorem exec_guardAnd {a b : GuardId} {ua ub : GuardUnit} (dst : RegId) (ha : s.unit? a = some ua)
    (hka : ua.kind ≠ .unconfigured) (hb : s.unit? b = some ub) (hkb : ub.kind ≠ .unconfigured) :
    exec (.guardAnd dst a b) s =
      writeReg dst (TaggedWord.ofBool (ua.active s.cfg.guardFns && ub.active s.cfg.guardFns)) s :=
  (withConfigured_of_unit _ ha hka).trans (withConfigured_of_unit _ hb hkb)

theorem exec_guardOr {a b : GuardId} {ua ub : GuardUnit} (dst : RegId) (ha : s.unit? a = some ua)
    (hka : ua.kind ≠ .unconfigured) (hb : s.unit? b = some ub) (hkb : ub.kind ≠ .unconfigured) :
    exec (.guardOr dst a b) s =
      writeReg dst (TaggedWord.ofBool (ua.active s.cfg.guardFns || ub.active s.cfg.guardFns)) s :=
  (withConfigured_of_unit _ ha hka).trans (withConfigured_of_unit _ hb hkb)

theorem exec_reflexIf_active {g : GuardId} {u : GuardUnit} (dst src : RegId) (hu : s.unit? g = some u)
    (hk : u.kind ≠ .unconfigured) (ha : u.active s.cfg.guardFns = true) :
    exec (.reflexIf g dst src) s = checkedRead src s fun v => writeReg dst v s :=
  (withConfigured_of_unit _ hu hk).trans (if_pos ha)

theorem exec_reflexIf_inactive {g : GuardId} {u : GuardUnit} (dst src : RegId) (hu : s.unit? g = some u)
    (hk : u.kind ≠ .unconfigured) (ha : u.active s.cfg.guardFns = false) :
    exec (.reflexIf g dst src) s = complete s :=
  (withConfigured_of_unit _ hu hk).trans (if_neg (by simp [ha]))

theorem prevWord_zero (signal : RegId) : s.prevWord? signal 0 = some (s.reg signal) := rfl

/-- The snapshot `d` tick boundaries ago (42_temporal_tier.md R156). -/
theorem prevWord_of_snapshot {signal : RegId} {d : Nat} {f : RegFile} {v : TaggedWord} (hd : d ≠ 0) (ht : d ≤ s.tick)
    (hf : s.hist[d - 1]? = some f) (hv : f[signal.toNat]? = some v) : s.prevWord? signal d = some v := by
  have hlt : signal.toNat < 256 := signal.isLt
  rw [Vector.getElem?_eq_getElem hlt] at hv
  simp only [State.prevWord?, if_neg hd, if_pos ht, hf, hv]

/-- There is no snapshot older than the first tick boundary (93_implementation_defined.md U15). -/
theorem prevWord_of_gt (signal : RegId) {d : Nat} (h : s.tick < d) : s.prevWord? signal d = none := by
  simp only [State.prevWord?, if_neg (Nat.ne_of_gt (Nat.zero_lt_of_lt h)), if_neg (Nat.not_le.mpr h)]

/-- PREV is refused without a word to read, and reads it checked (42_temporal_tier.md R156). -/
theorem exec_prev (dst signal : RegId) (delay : BitVec 8) :
    exec (.prev dst signal delay) s =
      (s.prevWord? signal delay.toNat).elim (.refused .prevBeforeStart) fun v =>
        if v.tag = .uninitialized then raiseExc .registerUninitialized s else writeReg dst v s := by
  change (match s.prevWord? signal delay.toNat with
    | none => (.refused .prevBeforeStart : Result)
    | some (v : TaggedWord) =>
      if v.tag = Tag.uninitialized then raiseExc .registerUninitialized s else writeReg dst v s) = _
  cases s.prevWord? signal delay.toNat
  all_goals rfl

theorem exec_prev_of_init {signal : RegId} {delay : BitVec 8} {v : TaggedWord} (dst : RegId)
    (hv : s.prevWord? signal delay.toNat = some v) (ht : v.tag ≠ .uninitialized) :
    exec (.prev dst signal delay) s = writeReg dst v s := by
  rw [exec_prev, hv, Option.elim_some, if_neg ht]

theorem exec_prev_of_uninit {signal : RegId} {delay : BitVec 8} {v : TaggedWord} (dst : RegId)
    (hv : s.prevWord? signal delay.toNat = some v) (ht : v.tag = .uninitialized) :
    exec (.prev dst signal delay) s = raiseExc .registerUninitialized s := by
  rw [exec_prev, hv, Option.elim_some, if_pos ht]

theorem exec_prev_of_none {signal : RegId} {delay : BitVec 8} (dst : RegId)
    (hv : s.prevWord? signal delay.toNat = none) : exec (.prev dst signal delay) s = .refused .prevBeforeStart := by
  rw [exec_prev, hv, Option.elim_none]

/-! ## Safety, Exception, Control, Tagged and Temporal extension tiers, opcodes 17 to 29 -/

theorem exec_emergencyStop : exec .emergencyStop s = .next { s with run := .emergencyStopped .instruction } := rfl

theorem exec_halt (exitCode : BitVec 26) : exec (.halt exitCode) s = .next { s with run := .halted exitCode } := rfl

/-- The two assertions as their shared meaning, which fails on the truth value they do not admit. -/
theorem exec_assertAlways (cond : RegId) (pid : BitVec 18) :
    exec (.assertAlways cond pid) s = assertUnless false cond s := rfl

theorem exec_assertNever (cond : RegId) (pid : BitVec 18) :
    exec (.assertNever cond pid) s = assertUnless true cond s := rfl

theorem assertUnless_of_unchecked (bad : Bool) (cond : RegId) (h : s.cfg.assertChecked = false) :
    assertUnless bad cond s = complete s :=
  if_neg (by simp [h])

theorem assertUnless_of_checked (bad : Bool) (cond : RegId) (h : s.cfg.assertChecked = true) :
    assertUnless bad cond s =
      checkedRead cond s fun v => if v.truth = bad then raiseExc .assertionViolation s else complete s :=
  if_pos h

theorem exec_trap {code : BitVec 26} {c : ExcCode} (h : ExcCode.ofNumber code.toNat = some c) :
    exec (.trap code) s = raiseExc c s := by
  simp only [exec, execTrap, h]

theorem exec_trap_of_none {code : BitVec 26} (h : ExcCode.ofNumber code.toNat = none) :
    exec (.trap code) s = .refused .badExceptionCode := by
  simp only [exec, execTrap, h]

theorem exec_trapIf {code : BitVec 18} {c : ExcCode} (cond : RegId) (h : ExcCode.ofNumber code.toNat = some c) :
    exec (.trapIf cond code) s = checkedRead cond s fun v => if v.truth then raiseExc c s else complete s := by
  simp only [exec, execTrapIf, h]

theorem exec_trapIf_of_none {code : BitVec 18} (cond : RegId) (h : ExcCode.ofNumber code.toNat = none) :
    exec (.trapIf cond code) s = .refused .badExceptionCode := by
  simp only [exec, execTrapIf, h]

theorem exec_modeSwitch_host (hm : s.mode = .reflex) :
    exec (.modeSwitch 1) s = complete { s with mode := .host } := by
  simp [exec, execModeSwitch, Mode.ofNumber, hm]

theorem exec_modeSwitch_reflex (hm : s.mode = .host) :
    exec (.modeSwitch 0) s =
      if Config.quiescent s.cycle then complete { s with mode := .reflex } else raiseExc .userTrap s := by
  simp [exec, execModeSwitch, Mode.ofNumber, hm]

theorem exec_modeSwitch_of_current {target : BitVec 26} (h : Mode.ofNumber target.toNat = some s.mode) :
    exec (.modeSwitch target) s = .refused .modeSwitchToCurrentMode := by
  simp only [exec, execModeSwitch, h, if_true]

theorem exec_modeSwitch_of_none {target : BitVec 26} (h : Mode.ofNumber target.toNat = none) :
    exec (.modeSwitch target) s = .refused .badMode := by
  simp only [exec, execModeSwitch, h]

theorem exec_fence : exec .fence s = complete s := rfl

theorem exec_tagLoad {code : BitVec 4} {t : Tag} (dst : RegId) (h : Tag.ofCode code = some t) :
    exec (.tagLoad dst code) s = writeReg dst { s.reg dst with tag := t } s := by
  simp only [exec, execTagLoad, h]

theorem exec_tagLoad_of_none {code : BitVec 4} (dst : RegId) (h : Tag.ofCode code = none) :
    exec (.tagLoad dst code) s = .refused .reservedTag := by
  simp only [exec, execTagLoad, h]

theorem exec_tagCheck {code : BitVec 4} {t : Tag} (src : RegId) (h : Tag.ofCode code = some t) :
    exec (.tagCheck src code) s = if (s.reg src).tag ≠ t then raiseExc .tagMismatch s else complete s := by
  simp only [exec, execTagCheck, h]

theorem exec_tagCheck_of_none {code : BitVec 4} (src : RegId) (h : Tag.ofCode code = none) :
    exec (.tagCheck src code) s = .refused .reservedTag := by
  simp only [exec, execTagCheck, h]

theorem exec_tagRead (dst src : RegId) :
    exec (.tagRead dst src) s =
      writeReg dst (TaggedWord.build .unsigned 4 (s.reg src).tag.code.toNat .computed) s := rfl

theorem exec_deadlineSet {g : GuardId} {u : GuardUnit} {maxCycles : BitVec 18} (hu : s.unit? g = some u)
    (hk : u.kind ≠ .unconfigured) (hn : maxCycles.toNat ≠ 0) :
    exec (.deadlineSet g maxCycles) s = complete (s.setUnit g (u.withDeadline (some maxCycles.toNat))) :=
  (withConfigured_of_unit _ hu hk).trans (if_neg hn)

theorem exec_deadlineSet_of_zero {g : GuardId} {u : GuardUnit} (hu : s.unit? g = some u)
    (hk : u.kind ≠ .unconfigured) : exec (.deadlineSet g 0) s = .refused .zeroDeadline :=
  withConfigured_of_unit _ hu hk

end

end Sys2Proof.Machine
end

section
/-!
PROOFS. What each instruction does when it completes, and when it refuses or raises (40_register_tier.md to
47_temporal_extension.md, 93_implementation_defined.md).
-/

namespace Sys2Proof.Machine

/-! ## Register tier (40_register_tier.md) -/

/-- Settles O34: a write of the drawn word; at the default every port is Unsigned of 64 bits. -/
theorem loadInputCompletes : Obligations.LoadInputCompletes := by
  unfold Obligations.LoadInputCompletes
  intro s dst port hport
  rw [exec_loadInput dst hport]
  obtain ⟨t, ht, hdst, honly, hpc⟩ := writeReg_completes dst _ s
  refine ⟨t, ht, hdst, fun hdefault => ?_, honly, hpc⟩
  rw [hdst]
  simp [Params.portType, hdefault]

/-- Settles O35: past the port bound and the checked read, a port write. -/
theorem storeOutputCompletes : Obligations.StoreOutputCompletes := by
  unfold Obligations.StoreOutputCompletes
  intro s src port hport hinit
  rw [exec_storeOutput src hport, checkedRead_of_init _ hinit]
  exact portWrite_completes port (s.reg src) s

/-- Settles O36: past the checked read, a write of the word read. -/
theorem movCompletes : Obligations.MovCompletes := by
  unfold Obligations.MovCompletes
  intro s dst src hinit
  rw [exec_mov, checkedRead_of_init _ hinit]
  exact writeReg_completes dst (s.reg src) s

/-- Settles O37: a write of the built literal, which `build_natCast` spells out. -/
theorem loadImmCompletes : Obligations.LoadImmCompletes := by
  unfold Obligations.LoadImmCompletes
  intro s dst value width h1 h64
  rw [exec_loadImm dst value h1 h64, build_natCast]
  exact writeReg_completes dst _ s

/-! ## ALU tier (41_alu_tier.md) -/

/-- Writing a result of ALU_FN: the result word, its provenance, and the frame. -/
theorem writeReg_completes_computed (dst : RegId) {v : TaggedWord} (s : State) (hv : v.prov = .computed) :
    ∃ t, writeReg dst v s = .next t ∧ t.reg dst = v ∧ (t.reg dst).prov = .computed ∧ OnlyReg dst s t ∧
      t.pc = s.pc + 1 := by
  obtain ⟨t, ht, hdst, honly, hpc⟩ := writeReg_completes dst v s
  exact ⟨t, ht, hdst, hdst ▸ hv, honly, hpc⟩

/-- Settles O31: past both checked reads, a write of ALU_FN's result. -/
theorem aluCompletes : Obligations.AluCompletes := by
  unfold Obligations.AluCompletes
  intro s op dst a b hop ha hb
  obtain ⟨o, hcode, hnth⟩ := aluOp_of_le hop
  rw [exec_alu dst a b hcode, checkedRead_of_init _ ha, checkedRead_of_init _ hb]
  obtain ⟨t, ht, hrest⟩ := writeReg_completes_computed dst s (aluBinary_prov s.cfg o (s.reg a) (s.reg b))
  exact ⟨t, o, ht, hnth, hrest⟩

/-- Settles O32: past the checked read, a write of ALU_FN's result on the immediate operand. -/
theorem aluImmCompletes : Obligations.AluImmCompletes := by
  unfold Obligations.AluImmCompletes
  intro s op dst a imm hop ha
  obtain ⟨o, hcode, hnth⟩ := aluOp_of_le hop
  rw [exec_aluImm dst a imm hcode, checkedRead_of_init _ ha, ← immOperand_eq]
  obtain ⟨t, ht, hrest⟩ := writeReg_completes_computed dst s (aluBinary_prov s.cfg o (s.reg a) (immOperand imm))
  exact ⟨t, o, ht, hnth, hrest⟩

/-- Settles O33: operation 0 is NOT and 1 is NEG. -/
theorem aluUnaryCompletes : Obligations.AluUnaryCompletes := by
  unfold Obligations.AluUnaryCompletes
  intro s op dst src hop hsrc
  have hcases : op = 0 ∨ op = 1 := by
    revert op
    decide
  obtain ⟨o, hcode, hnth, hlaws⟩ : ∃ o, AluUnaryOp.ofCode op = some o ∧ [AluUnaryOp.not, .neg][op.toNat]? = some o ∧
      (s.cfg.aluModel = .laws → s.cfg.aluUnary o (s.reg src) = TaggedWord.build (s.reg src).tag (s.reg src).wd
        (if op = 0 then 2 ^ (s.reg src).wd - 1 - ((s.reg src).raw : Int) else 2 ^ (s.reg src).wd - ((s.reg src).raw : Int))
        .computed) := by
    rcases hcases with rfl | rfl
    · exact ⟨.not, rfl, rfl, fun h => aluUnary_of_laws h .not _⟩
    · exact ⟨.neg, rfl, rfl, fun h => aluUnary_of_laws h .neg _⟩
  rw [exec_aluUnary dst src hcode, checkedRead_of_init _ hsrc]
  obtain ⟨t, ht, hdst, hprov, honly, hpc⟩ :=
    writeReg_completes_computed dst s (aluUnary_prov s.cfg o (s.reg src))
  exact ⟨t, o, ht, hnth, hdst, hprov, fun h => hdst.trans (hlaws h), honly, hpc⟩

/-! ## Temporal tier (42_temporal_tier.md) -/

/-- Settles O59: the laws are `lawGuards`. -/
theorem guardModelFollowsTheLaws : Obligations.GuardModelFollowsTheLaws := by
  unfold Obligations.GuardModelFollowsTheLaws
  refine ⟨rfl, fun cfg hlaws c n => ?_⟩
  rw [guardFns_of_laws hlaws]
  refine ⟨rfl, fun bits => ?tick, fun bits => ?active, rfl, fun count => rfl, fun count => ?zero⟩
  case tick =>
    split
    · next hnil => subst hnil; rfl
    · next hne => exact srShift_of_ne_nil c hne
  case active => simp [lawGuards]
  case zero => simp [lawGuards]

theorem toNat_ne_zero {w : Nat} {n : BitVec w} (h : n ≠ 0) : n.toNat ≠ 0 :=
  fun h0 => h (BitVec.eq_of_toNat_eq (by simpa using h0))

/-- Settles O38: a write of the unit that GUARD_MODEL starts. -/
theorem guardInitsComplete : Obligations.GuardInitsComplete := by
  unfold Obligations.GuardInitsComplete
  intro s g n cond u hu hn
  rw [exec_srInit cond hu (toNat_ne_zero hn), exec_ctrInit cond hu (toNat_ne_zero hn)]
  exact ⟨setUnit_completes _ hu, setUnit_completes _ hu⟩

/-- Settles O39: past the checked read, a write of the unit that GUARD_MODEL ticks; in host mode, nothing. -/
theorem guardTicksComplete : Obligations.GuardTicksComplete := by
  unfold Obligations.GuardTicksComplete
  intro s g cond n dl
  refine ⟨fun bits hu => ⟨fun hm hinit => ?srReflex, exec_srTick_host hu⟩,
    fun count hu => ⟨fun hm hinit => ?ctrReflex, exec_ctrTick_host hu⟩⟩
  case srReflex =>
    rw [exec_srTick_reflex hu hm, checkedRead_of_init _ hinit]
    exact setUnit_completes _ hu
  case ctrReflex =>
    rw [exec_ctrTick_reflex hu hm, checkedRead_of_init _ hinit]
    exact setUnit_completes _ hu

/-- Settles O40: a write of the activation as a Bool word. -/
theorem guardQueriesComplete : Obligations.GuardQueriesComplete := by
  unfold Obligations.GuardQueriesComplete
  intro s dst g cond n dl
  refine ⟨fun bits hu => ?sr, fun count hu => ?ctr⟩
  case sr =>
    rw [exec_srQuery dst hu, ofBool_eq]
    exact writeReg_completes dst _ s
  case ctr =>
    rw [exec_ctrQuery dst hu, ofBool_eq]
    exact writeReg_completes dst _ s

/-- Settles O41: past both guard checks, a write of a Bool word. -/
theorem guardCombinationsComplete : Obligations.GuardCombinationsComplete := by
  unfold Obligations.GuardCombinationsComplete
  intro s dst a b ua ub ha hka hb hkb
  rw [exec_guardAnd dst ha hka hb hkb, exec_guardOr dst ha hka hb hkb, ofBool_eq, ofBool_eq]
  simp only [Bool.and_eq_true, Bool.or_eq_true]
  exact ⟨writeReg_completes dst _ s, writeReg_completes dst _ s⟩

/-- Settles O43: the guard decides between a checked move and nothing. -/
theorem reflexIfCompletes : Obligations.ReflexIfCompletes := by
  unfold Obligations.ReflexIfCompletes
  intro s g dst src u hu hk
  refine ⟨fun hactive hinit => ?_, exec_reflexIf_inactive dst src hu hk⟩
  rw [exec_reflexIf_active dst src hu hk hactive, checkedRead_of_init _ hinit]
  exact writeReg_completes dst (s.reg src) s

/-- Settles O44: the word read is the register's or the snapshot's, and its tag decides. -/
theorem prevCompletes : Obligations.PrevCompletes := by
  unfold Obligations.PrevCompletes
  intro s dst signal delay v hword
  have hv : s.prevWord? signal delay.toNat = some v := by
    rcases hword with ⟨rfl, rfl⟩ | ⟨hdelay, htick, f, hf, hv⟩
    · exact prevWord_zero signal
    · exact prevWord_of_snapshot (toNat_ne_zero hdelay) htick hf hv
  refine ⟨fun hinit => ?_, exec_prev_of_uninit dst hv⟩
  rw [exec_prev_of_init dst hv hinit]
  exact writeReg_completes dst v s

/-! ## Safety, Exception and Control tiers (43_safety_tier.md to 45_control_tier.md) -/

/-- Settles O45: both by their rule. -/
theorem emergencyStopAndHaltComplete : Obligations.EmergencyStopAndHaltComplete := by
  unfold Obligations.EmergencyStopAndHaltComplete
  exact fun _ exitCode => ⟨exec_emergencyStop, exec_halt exitCode⟩

/-- A checked assertion on an initialized condition (43_safety_tier.md R171, R172). -/
theorem assertUnless_of_init {s : State} (bad : Bool) {cond : RegId} (hc : s.cfg.assertChecked = true)
    (hinit : (s.reg cond).tag ≠ .uninitialized) :
    assertUnless bad cond s =
      if (s.reg cond).truth = bad then raiseExc .assertionViolation s else complete s := by
  rw [assertUnless_of_checked bad cond hc, checkedRead_of_init _ hinit]

/-- Settles O46: ASSERT_ALWAYS fails on false, ASSERT_NEVER on true. -/
theorem assertionsComplete : Obligations.AssertionsComplete := by
  unfold Obligations.AssertionsComplete
  intro s cond pid
  rw [exec_assertAlways, exec_assertNever]
  refine ⟨fun hc => ?unchecked, fun hc hinit htruth => ?holds, fun hc hinit htruth => ?fails⟩
  case unchecked => exact ⟨assertUnless_of_unchecked false cond hc, assertUnless_of_unchecked true cond hc⟩
  all_goals
    rw [assertUnless_of_init false hc hinit, assertUnless_of_init true hc hinit, htruth]
    exact ⟨rfl, rfl⟩

/-- Settles O47: the operand names the exception, and the condition decides whether it is taken. -/
theorem trapsTakeTheNamedException : Obligations.TrapsTakeTheNamedException := by
  unfold Obligations.TrapsTakeTheNamedException
  intro s c
  have hname : ∀ {n : Nat}, n = c.number → ExcCode.ofNumber n = some c := by
    rintro _ rfl
    exact excCode_ofNumber_number c
  refine ⟨fun code hcode => exec_trap (hname hcode), fun cond code hcode hinit => ?_⟩
  rw [exec_trapIf cond (hname hcode), checkedRead_of_init _ hinit]
  exact ⟨fun htruth => if_pos htruth, fun htruth => if_neg (by simp [htruth])⟩

/-- Settles O48: both directions by their rule. -/
theorem modeSwitchCompletes : Obligations.ModeSwitchCompletes := by
  unfold Obligations.ModeSwitchCompletes
  exact fun s => ⟨exec_modeSwitch_host, exec_modeSwitch_reflex⟩

/-- Settles O50: the word by decoding it, the effect by its rule. -/
theorem fenceOnlyAdvances : Obligations.FenceOnlyAdvances := by
  unfold Obligations.FenceOnlyAdvances
  refine ⟨?word, fun s => exec_fence⟩
  case word => decide

/-! ## Tagged tier and Temporal extension (46_tagged_tier.md, 47_temporal_extension.md) -/

/-- Settles O51: the pairs listed are those of `Tag.code`. -/
theorem tagInstructionsComplete : Obligations.TagInstructionsComplete := by
  unfold Obligations.TagInstructionsComplete
  intro s r tag code hmem
  obtain rfl : tag.code = code := by
    simp only [List.mem_cons, Prod.mk.injEq, List.not_mem_nil, or_false] at hmem
    rcases hmem with ⟨rfl, rfl⟩ | ⟨rfl, rfl⟩ | ⟨rfl, rfl⟩ | ⟨rfl, rfl⟩
    all_goals rfl
  have hcode : Tag.ofCode tag.code = some tag := tag_ofCode_code tag
  rw [exec_tagLoad r hcode, exec_tagCheck r hcode]
  refine ⟨writeReg_completes r _ s, fun htag => if_neg (not_not.mpr htag), fun htag => if_pos htag, fun dst htag => ?_⟩
  rw [exec_tagRead, htag, build_tagCode]
  exact writeReg_completes dst _ s

/-- Settles O52: the unit written is the old one with its deadline replaced. -/
theorem deadlineSetCompletes : Obligations.DeadlineSetCompletes := by
  unfold Obligations.DeadlineSetCompletes
  intro s g maxCycles u hu hk hmax
  rw [exec_deadlineSet hu hk (toNat_ne_zero hmax)]
  obtain ⟨t, ht, hunit, honly, hpc⟩ := setUnit_completes (u.withDeadline (some maxCycles.toNat)) hu
  exact ⟨t, _, ht, hunit, deadline_withDeadline _ u, withDeadline_deadline _ u, honly, hpc⟩

/-! ## Uninitialized registers (10_state.md R16) -/

/-- Settles O27: per instruction, the conditions under which a form reads a register lead to the checked read of it, and
nothing is written before that read. -/
theorem uninitializedReadRaises : Obligations.UninitializedReadRaises := by
  unfold Obligations.UninitializedReadRaises
  rintro i s ⟨r, hr, huninit⟩
  cases i
  case storeOutput src port =>
    simp only [checkedReads, List.mem_ite_nil_right, List.mem_singleton] at hr
    obtain ⟨hport, rfl⟩ := hr
    rw [exec_storeOutput r hport, checkedRead_of_uninit _ huninit]
  case mov dst src =>
    obtain rfl := List.mem_singleton.mp hr
    rw [exec_mov, checkedRead_of_uninit _ huninit]
  case alu op dst a b =>
    simp only [checkedReads, List.mem_ite_nil_right, List.mem_cons, List.not_mem_nil, or_false] at hr
    obtain ⟨hop, hr⟩ := hr
    obtain ⟨o, hcode, -⟩ := aluOp_of_le (of_decide_eq_true hop)
    rw [exec_alu dst a b hcode]
    by_cases ha : (s.reg a).tag = .uninitialized
    · exact checkedRead_of_uninit _ ha
    · obtain rfl : r = b := hr.resolve_left fun h => ha (h ▸ huninit)
      rw [checkedRead_of_init _ ha, checkedRead_of_uninit _ huninit]
  case aluImm op dst a imm =>
    simp only [checkedReads, List.mem_ite_nil_right, List.mem_singleton] at hr
    obtain ⟨hop, rfl⟩ := hr
    obtain ⟨o, hcode, -⟩ := aluOp_of_le (of_decide_eq_true hop)
    rw [exec_aluImm dst r imm hcode, checkedRead_of_uninit _ huninit]
  case aluUnary op dst src =>
    simp only [checkedReads, List.mem_ite_nil_right, List.mem_singleton] at hr
    obtain ⟨hop, rfl⟩ := hr
    obtain ⟨o, hcode⟩ := Option.isSome_iff_exists.mp (aluUnaryOp_ofCode_isSome op hop)
    rw [exec_aluUnary dst r hcode, checkedRead_of_uninit _ huninit]
  case srTick g =>
    simp only [checkedReads] at hr
    split at hr
    · next cond n bits dl hm hu =>
      obtain rfl := List.mem_singleton.mp hr
      rw [exec_srTick_reflex hu hm, checkedRead_of_uninit _ huninit]
    · cases hr
  case ctrTick g =>
    simp only [checkedReads] at hr
    split at hr
    · next cond n bits dl hm hu =>
      obtain rfl := List.mem_singleton.mp hr
      rw [exec_ctrTick_reflex hu hm, checkedRead_of_uninit _ huninit]
    · cases hr
  case reflexIf g dst src =>
    simp only [checkedReads] at hr
    split at hr
    · next u hu =>
      simp only [List.mem_ite_nil_right, List.mem_singleton] at hr
      obtain ⟨⟨hk, hactive⟩, rfl⟩ := hr
      rw [exec_reflexIf_active dst r hu hk hactive, checkedRead_of_uninit _ huninit]
    · cases hr
  case prev dst signal delay =>
    simp only [checkedReads, List.mem_ite_nil_right, List.mem_singleton] at hr
    obtain ⟨hdelay, rfl⟩ := hr
    exact exec_prev_of_uninit dst (hdelay ▸ prevWord_zero r) huninit
  case assertAlways cond pid | assertNever cond pid =>
    simp only [checkedReads, List.mem_ite_nil_right, List.mem_singleton] at hr
    obtain ⟨hc, rfl⟩ := hr
    exact (assertUnless_of_checked _ r hc).trans (checkedRead_of_uninit _ huninit)
  case trapIf cond code =>
    simp only [checkedReads, List.mem_ite_nil_right, List.mem_singleton] at hr
    obtain ⟨hcode, rfl⟩ := hr
    rw [← excCode_ofNumber_isSome] at hcode
    obtain ⟨c, hc⟩ := Option.isSome_iff_exists.mp hcode
    rw [exec_trapIf r hc, checkedRead_of_uninit _ huninit]
  all_goals cases hr

/-! ## Refusals (93_implementation_defined.md, section 1) -/

theorem ofNumber_eq_none_of_not_isExcCode {n : Nat} (h : isExcCode n = false) : ExcCode.ofNumber n = none := by
  rwa [← excCode_ofNumber_isSome, Option.isSome_eq_false_iff, Option.isNone_iff_eq_none] at h

/-- Two guard operands of which one names no unit: the first that fails its check is the reason. -/
theorem withConfigured_both_refused {a b : GuardId} {s : State} (k : GuardUnit → GuardUnit → Result)
    (h : (isGuard a && isGuard b) = false) :
    ∃ r, (withConfigured a s fun ua => withConfigured b s fun ub => k ua ub) = .refused r := by
  rcases Bool.and_eq_false_iff.mp h with ha | hb
  · exact ⟨_, withConfigured_of_none _ (unit_eq_none_of_not_isGuard s ha)⟩
  · have hrefused : ∀ ua, (withConfigured b s fun ub => k ua ub) = .refused .guardIndexOutOfBounds :=
      fun ua => withConfigured_of_none _ (unit_eq_none_of_not_isGuard s hb)
    cases hua : s.unit? a with
    | none => exact ⟨_, withConfigured_of_none _ hua⟩
    | some ua =>
      by_cases hk : ua.kind = .unconfigured
      · exact ⟨_, withConfigured_of_unconfigured _ hua hk⟩
      · exact ⟨_, (withConfigured_of_unit _ hua hk).trans (hrefused ua)⟩

theorem eq_false_of_unlessOk {ok : Bool} {e : Illegal} (h : unlessOk ok e ≠ none) : ok = false := by
  cases ok with
  | false => rfl
  | true => exact absurd rfl h

/-- Settles O55: each kind of reserved operand names no operation, unit, exception, mode or tag, which its instruction
refuses before it reads the state. -/
theorem reservedOperandsAreRefused : Obligations.ReservedOperandsAreRefused := by
  unfold Obligations.ReservedOperandsAreRefused
  intro i s hi
  have hillegal : i.illegal ≠ none := fun h => by simp [wellFormed_iff.mpr h] at hi
  have hnoUnit : ∀ {g : GuardId}, isGuard g = false → s.unit? g = none := unit_eq_none_of_not_isGuard s
  cases i
  case alu op dst a b => exact ⟨_, exec_alu_of_reserved dst a b (aluOp_ofCode_eq_none op (eq_false_of_unlessOk hillegal))⟩
  case aluImm op dst a imm =>
    exact ⟨_, exec_aluImm_of_reserved dst a imm (aluOp_ofCode_eq_none op (eq_false_of_unlessOk hillegal))⟩
  case aluUnary op dst src =>
    exact ⟨_, exec_aluUnary_of_reserved dst src (aluUnaryOp_ofCode_eq_none op (eq_false_of_unlessOk hillegal))⟩
  case srInit g n cond => exact ⟨_, exec_srInit_of_none n cond (hnoUnit (eq_false_of_unlessOk hillegal))⟩
  case ctrInit g n cond => exact ⟨_, exec_ctrInit_of_none n cond (hnoUnit (eq_false_of_unlessOk hillegal))⟩
  case srTick | srQuery => exact ⟨_, withSr_of_none _ (hnoUnit (eq_false_of_unlessOk hillegal))⟩
  case ctrTick | ctrQuery => exact ⟨_, withCtr_of_none _ (hnoUnit (eq_false_of_unlessOk hillegal))⟩
  case guardAnd | guardOr => exact withConfigured_both_refused _ (eq_false_of_unlessOk hillegal)
  case reflexIf | deadlineSet => exact ⟨_, withConfigured_of_none _ (hnoUnit (eq_false_of_unlessOk hillegal))⟩
  case trap code => exact ⟨_, exec_trap_of_none (ofNumber_eq_none_of_not_isExcCode (eq_false_of_unlessOk hillegal))⟩
  case trapIf cond code =>
    exact ⟨_, exec_trapIf_of_none cond (ofNumber_eq_none_of_not_isExcCode (eq_false_of_unlessOk hillegal))⟩
  case modeSwitch target =>
    have hlarge := of_decide_eq_false (eq_false_of_unlessOk hillegal)
    exact ⟨_, exec_modeSwitch_of_none (mode_ofNumber_eq_none (Nat.lt_of_not_le hlarge))⟩
  case tagLoad dst t => exact ⟨_, exec_tagLoad_of_none dst (tag_ofCode_eq_none t (eq_false_of_unlessOk hillegal))⟩
  case tagCheck src t => exact ⟨_, exec_tagCheck_of_none src (tag_ofCode_eq_none t (eq_false_of_unlessOk hillegal))⟩
  all_goals exact absurd rfl hillegal

/-- A guard operand of at most 63 names a unit (10_state.md R22). -/
theorem exists_unit {g : GuardId} (s : State) (h : g.toNat ≤ 63) : ∃ u, s.unit? g = some u :=
  Option.isSome_iff_exists.mp ((unit_isSome_iff s g).mpr (Nat.lt_succ_of_le h))

/-- Settles O56: each value meets the check of its own instruction. -/
theorem operandsOutOfRangeAreRefused : Obligations.OperandsOutOfRangeAreRefused := by
  unfold Obligations.OperandsOutOfRangeAreRefused
  intro s
  refine ⟨fun dst port => exec_loadInput_of_ge dst, fun src port => exec_storeOutput_of_ge src,
    fun dst value width hwidth => ?width, fun g cond hg => ?guards, fun g u hu hk => exec_deadlineSet_of_zero hu hk,
    fun hm => ?toReflex, fun hm => ?toHost, fun dst signal delay htick => ?prev⟩
  case width => exact exec_loadImm_of_badWidth dst value (hwidth.imp_left (congrArg BitVec.toNat))
  case guards =>
    obtain ⟨u, hu⟩ := exists_unit s hg
    exact ⟨exec_srInit_of_zero cond hu, exec_ctrInit_of_zero cond hu⟩
  case toReflex => exact exec_modeSwitch_of_current (hm ▸ rfl)
  case toHost => exact exec_modeSwitch_of_current (hm ▸ rfl)
  case prev => exact exec_prev_of_none dst (prevWord_of_gt signal htick)

/-- Settles O57: the checks of guard operands; of two operands a is checked first. -/
theorem guardsNotConfiguredAreRefused : Obligations.GuardsNotConfiguredAreRefused := by
  unfold Obligations.GuardsNotConfiguredAreRefused
  intro s g u hu
  refine ⟨fun hk => ⟨withSr_of_otherKind _ hu hk, fun dst => withSr_of_otherKind _ hu hk⟩,
    fun hk => ⟨withCtr_of_otherKind _ hu hk, fun dst => withCtr_of_otherKind _ hu hk⟩, fun hk dst src => ?unconfigured⟩
  have hrefused : ∀ k, withConfigured g s k = .refused .guardNotConfigured :=
    fun k => withConfigured_of_unconfigured k hu hk
  have hsecond : ∀ {a ua} (k : GuardUnit → GuardUnit → Result), s.unit? a = some ua →
      (withConfigured a s fun ua => withConfigured g s fun ub => k ua ub) = .refused .guardNotConfigured := by
    intro a ua k hua
    by_cases hka : ua.kind = .unconfigured
    · exact withConfigured_of_unconfigured _ hua hka
    · exact (withConfigured_of_unit _ hua hka).trans (hrefused _)
  exact ⟨fun b => ⟨hrefused _, hrefused _⟩, fun a ua hua => ⟨hsecond _ hua, hsecond _ hua⟩, hrefused _,
    fun maxCycles => hrefused _⟩

end Sys2Proof.Machine
end

section
/-!
PROOFS. How words are read and built (10_state.md R17, R18), and what ALU_FN computes at its default (41_alu_tier.md R113 to
R128).
-/

namespace Sys2Proof.Machine

/-! ## Reading a word -/

theorem raw_lt (v : TaggedWord) : v.raw < 2 ^ v.wd := Nat.mod_lt _ (Nat.two_pow_pos _)

/-- The payload's low bits as a bit vector. -/
theorem toNat_setWidth_wd (v : TaggedWord) : (v.value.setWidth v.wd).toNat = v.raw := BitVec.toNat_setWidth _ _

theorem wd_of_bool {v : TaggedWord} (h : v.tag = .bool) : v.wd = 1 := by simp [TaggedWord.wd, h]

theorem wd_of_ne_bool {v : TaggedWord} (h : v.tag ≠ .bool) : v.wd = v.w := by
  unfold TaggedWord.wd
  split
  case h_1 hb => exact absurd hb h
  all_goals rfl

theorem int_of_signed {v : TaggedWord} (h : v.tag = .signed) :
    v.int = if 2 ^ (v.wd - 1) ≤ v.raw then (v.raw : Int) - 2 ^ v.wd else v.raw := by
  simp [TaggedWord.int, h]

theorem int_of_ne_signed {v : TaggedWord} (h : v.tag ≠ .signed) : v.int = v.raw := by
  unfold TaggedWord.int
  split
  case h_1 hs => exact absurd hs h
  all_goals rfl

theorem two_pow_eq_double {w : Nat} (h : 1 ≤ w) : 2 ^ w = 2 * 2 ^ (w - 1) := by
  rw [← Nat.pow_succ', Nat.succ_eq_add_one, Nat.sub_add_cancel h]

/-- Two's complement: a payload in the upper half stands for itself less 2^w (10_state.md R17). -/
theorem int_eq_toInt {v : TaggedWord} (h : v.tag = .signed) (hw : 1 ≤ v.wd) :
    v.int = (v.value.setWidth v.wd).toInt := by
  have hdouble := two_pow_eq_double hw
  rw [int_of_signed h, BitVec.toInt_eq_toNat_cond, toNat_setWidth_wd]
  push_cast
  split_ifs
  all_goals omega

/-! ## Building a word -/

theorem build_value (tag : Tag) (w : Nat) (n : Int) (p : Prov) :
    (TaggedWord.build tag w n p).value = BitVec.ofNat 64 (n % 2 ^ w).toNat := rfl

/-- A built word holds the number modulo 2^w. -/
theorem build_raw {tag : Tag} {w : Nat} (n : Int) (p : Prov) (hw : w ≤ 64)
    (hwd : (TaggedWord.build tag w n p).wd = w) : (TaggedWord.build tag w n p).raw = (n % 2 ^ w).toNat := by
  have hpos : (0 : Int) < 2 ^ w := Int.pow_pos (by decide)
  have hlt : (n % 2 ^ w).toNat < 2 ^ w := by
    have hmod := Int.emod_lt_of_pos n hpos
    zify
    rwa [Int.toNat_of_nonneg (Int.emod_nonneg n hpos.ne')]
  have hlt64 : (n % 2 ^ w).toNat < 2 ^ 64 := lt_of_lt_of_le hlt (Nat.pow_le_pow_right (by decide) hw)
  rw [TaggedWord.raw, hwd, build_value, BitVec.toNat_ofNat, Nat.mod_eq_of_lt hlt64, Nat.mod_eq_of_lt hlt]

theorem build_raw_int {tag : Tag} {w : Nat} (n : Int) (p : Prov) (hw : w ≤ 64)
    (hwd : (TaggedWord.build tag w n p).wd = w) : ((TaggedWord.build tag w n p).raw : Int) = n % 2 ^ w := by
  rw [build_raw n p hw hwd, Int.toNat_of_nonneg (Int.emod_nonneg n (Int.pow_pos (by decide)).ne')]

theorem wd_build_bool (n : Int) (p : Prov) : (TaggedWord.build .bool 1 n p).wd = 1 := wd_of_bool rfl

theorem wd_build_signed (w : Nat) (n : Int) (p : Prov) : (TaggedWord.build .signed w n p).wd = w := rfl

/-- A Signed word reads back balanced. -/
theorem int_build_signed {w : Nat} (n : Int) (p : Prov) (h1 : 1 ≤ w) (h64 : w ≤ 64) :
    (TaggedWord.build .signed w n p).int = n.bmod (2 ^ w) := by
  have hdouble : (2 : Int) ^ w = 2 * (2 ^ (w - 1) : Nat) := by exact_mod_cast two_pow_eq_double h1
  have hraw := build_raw_int (tag := .signed) n p h64 rfl
  rw [int_of_signed rfl, wd_build_signed, Int.bmod_def]
  push_cast
  rw [← hraw, hdouble]
  generalize 2 ^ (w - 1) = half
  split_ifs
  all_goals omega

/-- Settles O28: case by case on the tag. -/
theorem wordsReadAsTheirTagsSay : Obligations.WordsReadAsTheirTagsSay := by
  unfold Obligations.WordsReadAsTheirTagsSay
  refine ⟨fun v hv => ⟨fun h => ?bool, fun h => ?unsigned, fun h => ?signed, ?truth, raw_lt v⟩,
    fun w n p h1 h64 => ⟨?buildUnsigned, int_build_signed n p h1 h64, ?buildBool⟩⟩
  case bool => rw [int_of_ne_signed (by simp [h]), ← toNat_setWidth_wd, wd_of_bool h]
  case unsigned => rw [int_of_ne_signed (by simp [h]), ← toNat_setWidth_wd, wd_of_ne_bool (by simp [h])]
  case signed =>
    have hwd : v.wd = v.w := wd_of_ne_bool (by simp [h])
    rw [int_eq_toInt h (wd_range hv).1, hwd]
  case truth => simp [TaggedWord.truth]
  case buildUnsigned => rw [int_of_ne_signed (by simp), build_raw_int n p h64 rfl]
  case buildBool =>
    rw [int_of_ne_signed (by simp), build_raw_int n p (by decide) (wd_build_bool n p), pow_one]

/-! ## ALU_FN at its default, by the spec's formulas -/

/-- The second operand brought to width W, as the integer modulo 2^W (41_alu_tier.md R113). -/
theorem broughtTo_int (W : Nat) (vb : TaggedWord) : (broughtTo W vb : Int) = vb.int % 2 ^ W :=
  Int.toNat_of_nonneg (Int.emod_nonneg _ (Int.pow_pos (by decide)).ne')

/-- A result word holds its number modulo 2^W only. -/
theorem build_congr {tag : Tag} {w : Nat} {m n : Int} (p : Prov) (h : m % 2 ^ w = n % 2 ^ w) :
    TaggedWord.build tag w m p = TaggedWord.build tag w n p := by
  simp only [TaggedWord.build, h]

/-- A left shift by the width or more leaves nothing modulo 2^W (41_alu_tier.md R120). -/
theorem shiftLeft_eq (W ra s : Nat) : shiftLeft W ra s = ra * 2 ^ s % 2 ^ W := by
  unfold shiftLeft
  split
  next h => exact (Nat.mod_eq_zero_of_dvd (Dvd.dvd.mul_left (Nat.pow_dvd_pow 2 h) ra)).symm
  next => rfl

/-- A right shift by the width or more leaves nothing of a payload of W bits (41_alu_tier.md R121). -/
theorem shiftRight_eq {W ra : Nat} (s : Nat) (h : ra < 2 ^ W) : shiftRight W ra s = ra / 2 ^ s := by
  unfold shiftRight
  split
  next hs => exact (Nat.div_eq_of_lt (lt_of_lt_of_le h (Nat.pow_le_pow_right (by decide) hs))).symm
  next => rfl

/-- SHL as the formula of R120. -/
theorem aluShl_eq (va vb : TaggedWord) : aluShl va vb = likeFirst va (va.raw * 2 ^ vb.raw : Nat) := by
  refine build_congr _ ?_
  rw [shiftLeft_eq]
  push_cast
  exact Int.emod_emod_of_dvd _ dvd_rfl

/-- SHR as the formula of R121. -/
theorem aluShr_eq (va vb : TaggedWord) : aluShr va vb = likeFirst va (va.raw / 2 ^ vb.raw : Nat) := by
  rw [aluShr, shiftRight_eq _ (raw_lt va)]

/-- Settles O29: the arithmetic operations up to `broughtTo_int`, the shifts without their case split, the comparisons as
Bool words. -/
theorem aluFunctionFollowsTheLaws : Obligations.AluFunctionFollowsTheLaws := by
  unfold Obligations.AluFunctionFollowsTheLaws
  refine ⟨rfl, fun cfg va vb hlaws => ?_⟩
  simp only [aluBinary_of_laws hlaws, ← broughtTo_int, Int.toNat_natCast]
  refine ⟨rfl, rfl, rfl, rfl, rfl, rfl, aluShl_eq va vb, aluShr_eq va vb, ?_, ?_, ?_, ?_, ?_, ?_⟩
  case refine_2 =>
    rw [← ofBool_eq]
    simp [aluFn, aluNe, bne, beq_eq_decide]
  all_goals
    rw [← ofBool_eq]
    rfl

/-! ## ALU_FN at its default, by bit vectors -/

/-- A result word holds a bit vector of W bits when its number is the bit vector's, modulo 2^W. -/
theorem likeFirst_value {va : TaggedWord} {r : Int} {z : BitVec va.wd} (h : BitVec.ofInt va.wd r = z) :
    (likeFirst va r).value = z.setWidth 64 := by
  rw [likeFirst, build_value, ← h, ← BitVec.ofNat_toNat, BitVec.toNat_ofInt]
  push_cast
  rfl

/-- The payload of a word as a bit vector of its width. -/
theorem ofInt_raw (v : TaggedWord) : BitVec.ofInt v.wd v.raw = v.value.setWidth v.wd := by
  rw [BitVec.ofInt_natCast, ← toNat_setWidth_wd, BitVec.ofNat_toNat, BitVec.setWidth_eq]

/-- The second operand brought to W bits as a bit vector. -/
theorem ofInt_broughtTo (W : Nat) (vb : TaggedWord) : BitVec.ofInt W (broughtTo W vb) = BitVec.ofInt W vb.int := by
  refine BitVec.eq_of_toNat_eq ?_
  rw [BitVec.toNat_ofInt, BitVec.toNat_ofInt, broughtTo_int]
  push_cast
  rw [Int.emod_emod_of_dvd _ dvd_rfl]

theorem toNat_ofInt_int (W : Nat) (vb : TaggedWord) : (BitVec.ofInt W vb.int).toNat = broughtTo W vb := by
  rw [BitVec.toNat_ofInt, broughtTo]
  push_cast
  rfl

/-- A natural result as a bit vector. -/
theorem ofInt_natCast_eq {W n : Nat} {z : BitVec W} (h : n % 2 ^ W = z.toNat) : BitVec.ofInt W n = z := by
  rw [BitVec.ofInt_natCast]
  exact BitVec.eq_of_toNat_eq (by rw [BitVec.toNat_ofNat, h])

theorem bitVec_ofInt_sub (W : Nat) (m n : Int) : BitVec.ofInt W (m - n) = BitVec.ofInt W m - BitVec.ofInt W n := by
  rw [Int.sub_eq_add_neg, BitVec.ofInt_add, BitVec.ofInt_neg, BitVec.sub_eq_add_neg]

/-- The largest payload less a payload is its complement. -/
theorem ofInt_complement {W : Nat} (x : BitVec W) : BitVec.ofInt W (2 ^ W - 1 - x.toNat) = ~~~x := by
  have hlt := x.isLt
  have hcast : (2 ^ W - 1 - x.toNat : Int) = (2 ^ W - 1 - x.toNat : Nat) := by
    rw [Nat.cast_sub (by omega), Nat.cast_sub (by omega)]
    push_cast
    rfl
  rw [hcast]
  refine ofInt_natCast_eq ?_
  rw [BitVec.toNat_not, Nat.mod_eq_of_lt (by omega)]

theorem ofInt_two_pow (W : Nat) : BitVec.ofInt W (2 ^ W) = 0 := by
  refine BitVec.eq_of_toNat_eq ?_
  rw [BitVec.toNat_ofInt]
  push_cast
  rw [Int.emod_self]
  rfl

/-- Settles O30: sums, differences and products of representatives are those of the bit vectors; the bitwise operations and
the shifts agree on the natural numbers below 2^W. -/
theorem aluAgreesWithBitVectors : Obligations.AluAgreesWithBitVectors := by
  unfold Obligations.AluAgreesWithBitVectors
  intro cfg va vb hlaws _
  simp only [aluBinary_of_laws hlaws, aluUnary_of_laws hlaws, aluFn, aluUnaryFn, aluShl_eq, aluShr_eq]
  have hraw := raw_lt va
  have hsecond : broughtTo va.wd vb < 2 ^ va.wd := toNat_ofInt_int va.wd vb ▸ (BitVec.ofInt va.wd vb.int).isLt
  refine ⟨likeFirst_value ?add, likeFirst_value ?sub, likeFirst_value ?mul, likeFirst_value (ofInt_natCast_eq ?and),
    likeFirst_value (ofInt_natCast_eq ?or), likeFirst_value (ofInt_natCast_eq ?xor),
    likeFirst_value (ofInt_natCast_eq ?shl), likeFirst_value (ofInt_natCast_eq ?shr), likeFirst_value ?not,
    likeFirst_value ?neg⟩
  case add => rw [BitVec.ofInt_add, ofInt_raw, ofInt_broughtTo]
  case sub => rw [bitVec_ofInt_sub, ofInt_raw, ofInt_broughtTo]
  case mul => rw [BitVec.ofInt_mul, ofInt_raw, ofInt_broughtTo]
  case and =>
    rw [BitVec.toNat_and, toNat_setWidth_wd, toNat_ofInt_int, Nat.mod_eq_of_lt (Nat.and_lt_two_pow _ hsecond)]
  case or =>
    rw [BitVec.toNat_or, toNat_setWidth_wd, toNat_ofInt_int, Nat.mod_eq_of_lt (Nat.or_lt_two_pow hraw hsecond)]
  case xor =>
    rw [BitVec.toNat_xor, toNat_setWidth_wd, toNat_ofInt_int, Nat.mod_eq_of_lt (Nat.xor_lt_two_pow hraw hsecond)]
  case shl => rw [BitVec.toNat_shiftLeft, toNat_setWidth_wd, Nat.shiftLeft_eq]
  case shr =>
    rw [BitVec.toNat_ushiftRight, toNat_setWidth_wd, Nat.shiftRight_eq_div_pow,
      Nat.mod_eq_of_lt (lt_of_le_of_lt (Nat.div_le_self _ _) hraw)]
  case not => rw [← toNat_setWidth_wd, ofInt_complement]
  case neg => rw [bitVec_ofInt_sub, ofInt_two_pow, ofInt_raw, BitVec.ofNat_eq_ofNat, BitVec.zero_sub]

end Sys2Proof.Machine
end

section
/-!
PROOFS. Shift-register and counter guards of one length (42_temporal_tier.md R151), and the deadlines at the end of a cycle
(47_temporal_extension.md R211, R212).
-/

namespace Sys2Proof.Machine

/-! ## The two guard kinds on one list of samples -/

/-- The newest n samples, newest first; the false ones a shift register starts with stand for those before the first. -/
def lastSamples (n : Nat) (past : List Bool) : List Bool := (past.reverse ++ srFresh n).take n

/-- How many of the newest samples in a row were true. -/
def trueRun (past : List Bool) : Nat := (past.reverse.takeWhile id).length

theorem lastSamples_nil (n : Nat) : lastSamples n [] = srFresh n := by simp [lastSamples, srFresh]

/-- A tick of the shift register: the newest sample in, the oldest out (R143). -/
theorem srShift_lastSamples {n : Nat} (past : List Bool) (c : Bool) :
    srShift c (lastSamples n past) = lastSamples n (past ++ [c]) := by
  have hlen : (lastSamples n past).length = n := by simp [lastSamples, srFresh]
  rw [srShift, hlen, lastSamples, lastSamples, List.reverse_append, List.reverse_singleton, List.singleton_append,
    List.cons_append]
  cases n with
  | zero => rfl
  | succ n => simp [List.take_take]

/-- A tick of the counter: one down on a true sample, reloaded on a false one (R146). -/
theorem ctrCount_trueRun (n : Nat) (past : List Bool) (c : Bool) :
    ctrCount c n (n - trueRun past) = n - trueRun (past ++ [c]) := by
  cases c <;> simp [ctrCount, trueRun, Nat.sub_sub]

/-- The first n samples of a list exist and are all true. -/
def FirstTrue (n : Nat) (newest : List Bool) : Prop := n ≤ newest.length ∧ ∀ b ∈ newest.take n, b = true

theorem firstTrue_cons (n : Nat) (b : Bool) (rest : List Bool) :
    FirstTrue (n + 1) (b :: rest) ↔ b = true ∧ FirstTrue n rest := by
  simp [FirstTrue, and_left_comm]

theorem take_append_false_all {n k : Nat} (hk : n ≤ k) (newest : List Bool) :
    ((newest ++ srFresh k).take n).all id = true ↔ FirstTrue n newest := by
  induction newest generalizing n with
  | nil =>
    cases n with
    | zero => simp [FirstTrue]
    | succ n =>
      obtain ⟨k, rfl⟩ := Nat.exists_eq_succ_of_ne_zero (Nat.ne_of_gt (Nat.lt_of_lt_of_le (Nat.succ_pos n) hk))
      simp [FirstTrue, srFresh, List.replicate_succ]
  | cons b rest ih =>
    cases n with
    | zero => simp [FirstTrue]
    | succ n =>
      rw [firstTrue_cons, ← ih (Nat.le_of_succ_le hk)]
      simp

theorem le_takeWhile_length {n : Nat} (newest : List Bool) : n ≤ (newest.takeWhile id).length ↔ FirstTrue n newest := by
  induction newest generalizing n with
  | nil => simp [FirstTrue]
  | cons b rest ih =>
    cases n with
    | zero => simp [FirstTrue]
    | succ n =>
      rw [firstTrue_cons, ← ih]
      cases b <;> simp

/-- A shift register is active when the newest n samples exist and are true. -/
theorem lastSamples_all (n : Nat) (past : List Bool) : (lastSamples n past).all id = true ↔ FirstTrue n past.reverse :=
  take_append_false_all le_rfl past.reverse

/-- So is a counter. -/
theorem sub_trueRun_eq_zero (n : Nat) (past : List Bool) : n - trueRun past = 0 ↔ FirstTrue n past.reverse := by
  rw [Nat.sub_eq_zero_iff_le, trueRun, le_takeWhile_length]

theorem firstTrue_reverse_map (n : Nat) (samples : List TaggedWord) :
    FirstTrue n (samples.map TaggedWord.truth).reverse ↔
      n ≤ samples.length ∧ ∀ v ∈ samples.drop (samples.length - n), v.truth = true := by
  simp [FirstTrue, List.take_reverse, ← List.map_drop]

/-- The state after both units, set up alike, have taken the samples of `past`. -/
structure TickedAlike (g h : GuardId) (cond : RegId) (n : Nat) (past : List Bool) (t : State) : Prop where
  laws : t.cfg.guardModel = .laws
  mode : t.mode = .reflex
  sr : ∃ dl, t.unit? g = some (.sr cond n (lastSamples n past) dl)
  ctr : ∃ dl, t.unit? h = some (.ctr cond n (n - trueRun past) dl)

theorem andThen_next (s : State) (k : State → Result) : andThen (.next s) k = k s := rfl

/-- Completing by writing one unit: that unit, the others, and what the other instructions here look at. -/
theorem setUnit_completes_keeping {s : State} {g : GuardId} {w : GuardUnit} (u : GuardUnit) (hw : s.unit? g = some w) :
    ∃ t, complete (s.setUnit g u) = .next t ∧ t.unit? g = some u ∧ (∀ h, g ≠ h → t.unit? h = s.unit? h) ∧
      t.cfg = s.cfg ∧ t.mode = s.mode ∧ ∀ r, t.reg r = s.reg r := by
  have hg : g.toNat < 64 := unit_lt hw
  refine ⟨_, rfl, ?_, fun h hne => ?_, rfl, rfl, fun r => rfl⟩
  · rw [advance_unit, unit_setUnit _ _ _ _ hg, if_pos rfl]
  · rw [advance_unit, unit_setUnit _ _ _ _ hg, if_neg hne.symm]

/-- SR_INIT and CTR_INIT set the two units up. -/
theorem tickedAlike_of_inits {s : State} {g h : GuardId} {n : BitVec 8} (cond : RegId) (hlaws : s.cfg.guardModel = .laws)
    (hm : s.mode = .reflex) (hg : g.toNat ≤ 63) (hh : h.toNat ≤ 63) (hne : g ≠ h) (hn : n ≠ 0) :
    ∃ t, andThen (exec (.srInit g n cond) s) (exec (.ctrInit h n cond)) = .next t ∧
      TickedAlike g h cond n.toNat [] t := by
  obtain ⟨ug, hug⟩ := exists_unit s hg
  obtain ⟨uh, huh⟩ := exists_unit s hh
  rw [exec_srInit cond hug (toNat_ne_zero hn), guardFns_of_laws hlaws]
  obtain ⟨t₁, ht₁, hsr, hkeep, hcfg, hmode, -⟩ :=
    setUnit_completes_keeping (.sr cond n.toNat (lawGuards.srInit n.toNat) ug.deadline) hug
  have huh₁ : t₁.unit? h = some uh := (hkeep h hne).trans huh
  rw [ht₁, andThen_next, exec_ctrInit cond huh₁ (toNat_ne_zero hn), hcfg, guardFns_of_laws hlaws]
  obtain ⟨t₂, ht₂, hctr, hkeep', hcfg', hmode', -⟩ :=
    setUnit_completes_keeping (.ctr cond n.toNat (lawGuards.ctrInit n.toNat) uh.deadline) huh₁
  have hsr₂ := (hkeep' g hne.symm).trans hsr
  refine ⟨t₂, ht₂, ⟨?laws, hmode'.trans (hmode.trans hm), ⟨ug.deadline, ?sr⟩, ⟨uh.deadline, hctr⟩⟩⟩
  case laws => rw [hcfg', hcfg, hlaws]
  case sr =>
    rw [hsr₂, lastSamples_nil]
    rfl

/-- One more sample for both. -/
theorem tickedAlike_sampleBoth {g h : GuardId} {cond : RegId} {n : Nat} {past : List Bool} {t : State} {v : TaggedWord}
    (ht : TickedAlike g h cond n past t) (hne : g ≠ h) (hv : v.tag ≠ .uninitialized) :
    ∃ t', sampleBoth g h cond (.next t) v = .next t' ∧ TickedAlike g h cond n (past ++ [v.truth]) t' := by
  obtain ⟨hlaws, hm, ⟨dl, hsr⟩, ⟨dl', hctr⟩⟩ := ht
  have hv₀ : (t.setReg cond v).reg cond = v := reg_setReg_same t cond v
  rw [sampleBoth, andThen_next, exec_srTick_reflex (s := t.setReg cond v) hsr hm,
    checkedRead_of_init _ (by rwa [hv₀]), hv₀, setReg_cfg, guardFns_of_laws hlaws]
  obtain ⟨t₁, ht₁, hsr₁, hkeep, hcfg, hmode, hreg⟩ := setUnit_completes_keeping (s := t.setReg cond v)
    (.sr cond n (lawGuards.srTick v.truth n (lastSamples n past)) dl) hsr
  have hv₁ : t₁.reg cond = v := (hreg cond).trans hv₀
  have hctr₁ : t₁.unit? h = some (.ctr cond n (n - trueRun past) dl') := (hkeep h hne).trans hctr
  have hlaws₁ : t₁.cfg.guardModel = .laws := by rw [hcfg, setReg_cfg, hlaws]
  rw [ht₁, andThen_next, exec_ctrTick_reflex hctr₁ (hmode.trans hm), checkedRead_of_init _ (by rwa [hv₁]), hv₁,
    guardFns_of_laws hlaws₁]
  obtain ⟨t₂, ht₂, hctr₂, hkeep', hcfg', hmode', -⟩ :=
    setUnit_completes_keeping (.ctr cond n (lawGuards.ctrTick v.truth n (n - trueRun past)) dl') hctr₁
  have hsr₂ := (hkeep' g hne.symm).trans hsr₁
  refine ⟨t₂, ht₂, ⟨hcfg' ▸ hlaws₁, hmode'.trans (hmode.trans hm), ⟨dl, ?_⟩, ⟨dl', ?_⟩⟩⟩
  · rw [hsr₂, ← srShift_lastSamples]
    rfl
  · rw [hctr₂, ← ctrCount_trueRun]
    rfl

theorem tickedAlike_foldl {g h : GuardId} {cond : RegId} {n : Nat} (hne : g ≠ h) (samples : List TaggedWord) :
    ∀ {past : List Bool} {t : State}, TickedAlike g h cond n past t → (∀ v ∈ samples, v.tag ≠ .uninitialized) →
      ∃ t', samples.foldl (sampleBoth g h cond) (.next t) = .next t' ∧
        TickedAlike g h cond n (past ++ samples.map TaggedWord.truth) t' := by
  induction samples with
  | nil =>
    intro past t ht _
    exact ⟨t, rfl, by simpa using ht⟩
  | cons v rest ih =>
    intro past t ht hinit
    obtain ⟨t₁, hsample, ht₁⟩ := tickedAlike_sampleBoth ht hne (hinit v List.mem_cons_self)
    obtain ⟨t', hfold, ht'⟩ := ih ht₁ fun w hw => hinit w (List.mem_cons_of_mem v hw)
    refine ⟨t', ?_, by simpa using ht'⟩
    rw [List.foldl_cons, hsample, hfold]

/-- Settles O42: both units' activation is `FirstTrue` of the samples taken. -/
theorem shiftRegisterAndCounterGuardsAgree : Obligations.ShiftRegisterAndCounterGuardsAgree := by
  unfold Obligations.ShiftRegisterAndCounterGuardsAgree
  intro s g h n cond samples hlaws hm hg hh hne hn hinit
  obtain ⟨t₀, hinits, ht₀⟩ := tickedAlike_of_inits cond hlaws hm hg hh hne hn
  obtain ⟨t, hfold, ht⟩ := tickedAlike_foldl hne samples ht₀ hinit
  obtain ⟨dl, hsr⟩ := ht.sr
  obtain ⟨dl', hctr⟩ := ht.ctr
  rw [List.nil_append] at hsr hctr
  rw [hinits, guardFns_of_laws hlaws]
  have hsrActive := lastSamples_all n.toNat (samples.map TaggedWord.truth)
  have hctrActive := sub_trueRun_eq_zero n.toNat (samples.map TaggedWord.truth)
  refine ⟨t, _, _, hfold, hsr, hctr, ?agree, ?meaning⟩
  case agree =>
    rw [Bool.eq_iff_iff]
    simp only [GuardUnit.active, lawGuards, beq_iff_eq]
    exact hsrActive.trans hctrActive.symm
  case meaning => exact hsrActive.trans (firstTrue_reverse_map n.toNat samples)

/-! ## Deadlines at the end of a cycle (47_temporal_extension.md R211, R212) -/

/-- A deadline that is not counted down is removed. -/
theorem unitCountDeadline_of_some (fns : GuardFunctions) {u : GuardUnit} {r : Nat} (h : u.deadline = some r) :
    unitCountDeadline fns u = u.withDeadline (if u.active fns = true ∨ r ≤ 1 then none else some (r - 1)) := by
  by_cases ha : u.active fns = true
  · simp [unitCountDeadline, h, ha]
  · by_cases hr : r ≤ 1 <;> simp [unitCountDeadline, h, ha, hr]

theorem unitCountDeadline_of_none (fns : GuardFunctions) {u : GuardUnit} (h : u.deadline = none) :
    unitCountDeadline fns u = u := by
  simp [unitCountDeadline, h]

theorem unitMisses_iff (fns : GuardFunctions) (u : GuardUnit) :
    unitMisses fns u = true ↔ ∃ r, u.deadline = some r ∧ r ≤ 1 ∧ u.active fns = false := by
  cases h : u.deadline <;> simp [unitMisses, h, and_comm]

section
variable (i : Instr) {s : State} (hr : s.run = .running)
include hr

/-- A running machine's reflex-mode cycle without a miss. -/
theorem endOfCycle_of_noMiss (h : anyMiss s.cfg.guardFns (armedUnit i) s.guards = false) :
    endOfCycle .reflex i s =
      { s with guards := countDeadlines s.cfg.guardFns (armedUnit i) s.guards, cycle := s.cycle + 1 } := by
  simp [endOfCycle, deadlineStep, hr, h]

/-- A running machine's reflex-mode cycle with a miss. -/
theorem endOfCycle_of_miss (h : anyMiss s.cfg.guardFns (armedUnit i) s.guards = true) :
    endOfCycle .reflex i s =
      { State.raise { s with guards := countDeadlines s.cfg.guardFns (armedUnit i) s.guards } .deadlineMiss s.pc with
        cycle := s.cycle + 1 } := by
  simp [endOfCycle, deadlineStep, hr, h]

/-- Either way every unit's deadline has counted. -/
theorem endOfCycle_reflex_guards :
    (endOfCycle .reflex i s).guards = countDeadlines s.cfg.guardFns (armedUnit i) s.guards := by
  cases h : anyMiss s.cfg.guardFns (armedUnit i) s.guards with
  | false => rw [endOfCycle_of_noMiss i hr h]
  | true =>
    rw [endOfCycle_of_miss i hr h]
    exact raise_guards _ _ _

end

theorem endOfCycle_host (i : Instr) (s : State) : endOfCycle .host i s = { s with cycle := s.cycle + 1 } := by
  simp [endOfCycle]

/-- Settles O53: unit by unit. -/
theorem deadlinesCountAtTheEndOfACycle : Obligations.DeadlinesCountAtTheEndOfACycle := by
  unfold Obligations.DeadlinesCountAtTheEndOfACycle
  intro i s
  refine ⟨fun hr k => ?counts, fun hstopped => endOfCycle_of_stopped _ i s hstopped, endOfCycle_host i s⟩
  rw [endOfCycle_reflex_guards i hr, countDeadlines_get]
  refine ⟨fun hskip => ?skips, fun r harmed hdl => ?moves⟩
  case skips =>
    split
    next => rfl
    next harmed => exact unitCountDeadline_of_none _ (hskip.resolve_left harmed)
  case moves => rw [if_neg harmed, unitCountDeadline_of_some _ hdl]

/-- Settles O54: some unit misses or none does, and the miss is raised at the pc in place. -/
theorem deadlineMissIsRaisedOnce : Obligations.DeadlineMissIsRaisedOnce := by
  unfold Obligations.DeadlineMissIsRaisedOnce
  intro i s hr
  rw [endOfCycle_reflex_guards i hr]
  refine ⟨fun ⟨k, r, harmed, hdl, hr1, hinactive⟩ => ?miss, fun hnone => ?noMiss⟩
  case miss =>
    refine endOfCycle_of_miss i hr ((anyMiss_eq_true _ _ _).mpr ⟨k, harmed, ?_⟩)
    exact (unitMisses_iff _ _).mpr ⟨r, hdl, hr1, hinactive⟩
  case noMiss =>
    refine endOfCycle_of_noMiss i hr (Bool.eq_false_iff.mpr fun hmiss => ?_)
    obtain ⟨k, harmed, hk⟩ := (anyMiss_eq_true _ _ _).mp hmiss
    obtain ⟨r, hdl, hr1, hinactive⟩ := (unitMisses_iff _ _).mp hk
    rcases hnone k r harmed hdl with hlong | hactive
    · exact absurd hr1 (Nat.not_le.mpr hlong)
    · exact absurd (hinactive.symm.trans hactive) Bool.false_ne_true

end Sys2Proof.Machine
end

section
/-!
PROOFS. Provenance influences nothing but provenance (10_state.md R14): every operation of the model takes states that differ
in provenance alone to outcomes that differ in provenance alone.
-/

namespace Sys2Proof.Machine

/-! ## Words that differ in provenance alone -/

section
variable {v w : TaggedWord} (h : eraseWordProv v = eraseWordProv w)
include h

theorem tag_eq_of_erased : v.tag = w.tag := (congrArg TaggedWord.tag h :)

theorem truth_eq_of_erased : v.truth = w.truth := (congrArg TaggedWord.truth h :)

theorem withTag_erased (t : Tag) : eraseWordProv { v with tag := t } = eraseWordProv { w with tag := t } :=
  (congrArg (fun x : TaggedWord => { x with tag := t }) h :)

end

/-- The laws of ALU_FN do not see provenance. -/
theorem aluFn_erase (op : AluOp) (va vb : TaggedWord) : aluFn op (eraseWordProv va) (eraseWordProv vb) = aluFn op va vb := by
  cases op <;> rfl

theorem aluUnaryFn_erase (op : AluUnaryOp) (va : TaggedWord) : aluUnaryFn op (eraseWordProv va) = aluUnaryFn op va := by
  cases op <;> rfl

/-- Neither does another ALU_FN, which is given words without it. -/
theorem aluBinary_erased {va vb wa wb : TaggedWord} (cfg : Params) (op : AluOp) (ha : eraseWordProv va = eraseWordProv wa)
    (hb : eraseWordProv vb = eraseWordProv wb) : cfg.aluBinary op va vb = cfg.aluBinary op wa wb := by
  unfold Params.aluBinary
  rw [← aluFn_erase op va vb, ← aluFn_erase op wa wb, ha, hb]

theorem aluUnary_erased {va wa : TaggedWord} (cfg : Params) (op : AluUnaryOp) (ha : eraseWordProv va = eraseWordProv wa) :
    cfg.aluUnary op va = cfg.aluUnary op wa := by
  unfold Params.aluUnary
  rw [← aluUnaryFn_erase op va, ← aluUnaryFn_erase op wa, ha]

/-! ## The updates of the state commute with erasing provenance -/

theorem eraseProv_setReg (s : State) (i : RegId) (v : TaggedWord) :
    (s.setReg i v).eraseProv = s.eraseProv.setReg i (eraseWordProv v) := by
  simp only [State.eraseProv, State.setReg, Vector.map_set]

theorem eraseProv_portWrite (s : State) (p : PortId) (v : TaggedWord) :
    (s.portWrite p v).eraseProv = s.eraseProv.portWrite p (eraseWordProv v) := by
  simp only [State.eraseProv, State.portWrite, Vector.map_set, List.map_append, Option.map_some, List.map_cons,
    List.map_nil]

theorem eraseProv_raise (s : State) (c : ExcCode) (r : Nat) : (s.raise c r).eraseProv = s.eraseProv.raise c r :=
  calc (s.raise c r).eraseProv
    _ = s.eraseProv.withControl (s.raise c r) := by rw [raise_only s c r]; rfl
    _ = s.eraseProv.raise c r := (raise_withControl s.eraseProv s c r).symm

theorem eraseProv_reg (s : State) (r : RegId) : s.eraseProv.reg r = eraseWordProv (s.reg r) := by
  simp [State.eraseProv, State.reg]

theorem eraseProv_prevWord (s : State) (r : RegId) (d : Nat) :
    s.eraseProv.prevWord? r d = (s.prevWord? r d).map eraseWordProv := by
  have hlt : r.toNat < 256 := r.isLt
  have hhist : s.eraseProv.hist[d - 1]? = (s.hist[d - 1]?).map fun f => f.map eraseWordProv := List.getElem?_map
  have htick : s.eraseProv.tick = s.tick := rfl
  unfold State.prevWord?
  rw [hhist, eraseProv_reg, htick]
  by_cases h0 : d = 0
  · simp only [if_pos h0, Option.map_some]
  · by_cases ht : d ≤ s.tick
    · simp only [if_neg h0, if_pos ht]
      cases s.hist[d - 1]? with
      | none => rfl
      | some f => simp only [Option.map_some, Vector.getElem_map]
    · simp only [if_neg h0, if_neg ht, Option.map_none]

/-! ## Two states that differ in provenance alone -/

section
variable {s t : State} (h : s.eraseProv = t.eraseProv)
include h

theorem cfg_of_erased : t.cfg = s.cfg := (congrArg State.cfg h :).symm
theorem pc_of_erased : t.pc = s.pc := (congrArg State.pc h :).symm
theorem guards_of_erased : t.guards = s.guards := (congrArg State.guards h :).symm
theorem mode_of_erased : t.mode = s.mode := (congrArg State.mode h :).symm
theorem run_of_erased : t.run = s.run := (congrArg State.run h :).symm
theorem cycle_of_erased : t.cycle = s.cycle := (congrArg State.cycle h :).symm
theorem unit_of_erased (g : GuardId) : t.unit? g = s.unit? g := by rw [State.unit?, State.unit?, guards_of_erased h]

theorem reg_of_erased (r : RegId) : eraseWordProv (s.reg r) = eraseWordProv (t.reg r) := by
  rw [← eraseProv_reg, ← eraseProv_reg, h]

theorem complete_erased : eraseProvResult (complete s) = eraseProvResult (complete t) :=
  (congrArg (fun u : State => (Host.Outcome.next u.advance : Result)) h :)

theorem raiseExc_erased (c : ExcCode) : eraseProvResult (raiseExc c s) = eraseProvResult (raiseExc c t) := by
  simp only [raiseExc, eraseProvResult, eraseProv_raise, h, pc_of_erased h]

theorem checkedRead_erased (r : RegId) {k k' : TaggedWord → Result}
    (hk : ∀ {v w}, eraseWordProv v = eraseWordProv w → eraseProvResult (k v) = eraseProvResult (k' w)) :
    eraseProvResult (checkedRead r s k) = eraseProvResult (checkedRead r t k') := by
  have hr := reg_of_erased h r
  by_cases hu : (s.reg r).tag = .uninitialized
  · rw [checkedRead, checkedRead, if_pos hu, if_pos (tag_eq_of_erased hr ▸ hu)]
    exact raiseExc_erased h _
  · rw [checkedRead_of_init _ hu, checkedRead_of_init _ (tag_eq_of_erased hr ▸ hu)]
    exact hk hr

theorem writeReg_erased (dst : RegId) {v w : TaggedWord} (hv : eraseWordProv v = eraseWordProv w) :
    eraseProvResult (writeReg dst v s) = eraseProvResult (writeReg dst w t) :=
  complete_erased (by rw [eraseProv_setReg, eraseProv_setReg, h, hv])

theorem setUnit_erased (g : GuardId) (u : GuardUnit) :
    eraseProvResult (complete (s.setUnit g u)) = eraseProvResult (complete (t.setUnit g u)) :=
  complete_erased (congrArg (fun x : State => x.setUnit g u) h :)

theorem portWrite_erased (p : PortId) {v w : TaggedWord} (hv : eraseWordProv v = eraseWordProv w) :
    eraseProvResult (complete (s.portWrite p v)) = eraseProvResult (complete (t.portWrite p w)) :=
  complete_erased (by rw [eraseProv_portWrite, eraseProv_portWrite, h, hv])

theorem withConfigured_erased (g : GuardId) {k k' : GuardUnit → Result}
    (hk : ∀ u, eraseProvResult (k u) = eraseProvResult (k' u)) :
    eraseProvResult (withConfigured g s k) = eraseProvResult (withConfigured g t k') := by
  cases hu : s.unit? g with
  | none => rw [withConfigured_of_none _ hu, withConfigured_of_none _ ((unit_of_erased h g).trans hu)]
  | some u =>
    have hu' : t.unit? g = some u := (unit_of_erased h g).trans hu
    by_cases hc : u.kind = .unconfigured
    · rw [withConfigured_of_unconfigured _ hu hc, withConfigured_of_unconfigured _ hu' hc]
    · rw [withConfigured_of_unit _ hu hc, withConfigured_of_unit _ hu' hc, hk]

theorem withSr_erased (g : GuardId) {k k' : RegId → Nat → List Bool → Option Nat → Result}
    (hk : ∀ cond n bits dl, eraseProvResult (k cond n bits dl) = eraseProvResult (k' cond n bits dl)) :
    eraseProvResult (withSr g s k) = eraseProvResult (withSr g t k') := by
  simp only [withSr, unit_of_erased h g]
  split
  case h_2 => exact hk _ _ _ _
  all_goals rfl

theorem withCtr_erased (g : GuardId) {k k' : RegId → Nat → Nat → Option Nat → Result}
    (hk : ∀ cond n count dl, eraseProvResult (k cond n count dl) = eraseProvResult (k' cond n count dl)) :
    eraseProvResult (withCtr g s k) = eraseProvResult (withCtr g t k') := by
  simp only [withCtr, unit_of_erased h g]
  split
  case h_2 => exact hk _ _ _ _
  all_goals rfl

end

theorem eraseProvResult_ite {c : Prop} [Decidable c] {a b a' b' : Result}
    (ha : c → eraseProvResult a = eraseProvResult a') (hb : ¬ c → eraseProvResult b = eraseProvResult b') :
    eraseProvResult (if c then a else b) = eraseProvResult (if c then a' else b') := by
  by_cases hc : c
  · rw [if_pos hc, if_pos hc, ha hc]
  · rw [if_neg hc, if_neg hc, hb hc]

/-! ## Instructions -/

section
variable {s t : State} (h : s.eraseProv = t.eraseProv)
include h

theorem assertUnless_erased (bad : Bool) (cond : RegId) :
    eraseProvResult (assertUnless bad cond s) = eraseProvResult (assertUnless bad cond t) := by
  simp only [assertUnless, cfg_of_erased h]
  refine eraseProvResult_ite (fun _ => checkedRead_erased h cond fun hv => ?_) fun _ => complete_erased h
  rw [truth_eq_of_erased hv]
  exact eraseProvResult_ite (fun _ => raiseExc_erased h _) fun _ => complete_erased h

/-- An instruction takes both states to the same outcome up to provenance. -/
theorem exec_erased (i : Instr) : eraseProvResult (exec i s) = eraseProvResult (exec i t) := by
  have hcfg : t.cfg = s.cfg := cfg_of_erased h
  have hmode : t.mode = s.mode := mode_of_erased h
  have hcycle : t.cycle = s.cycle := cycle_of_erased h
  have hunit : ∀ g, t.unit? g = s.unit? g := unit_of_erased h
  cases i
  case loadInput dst port =>
    simp only [exec, execLoadInput, hcfg, hcycle]
    exact eraseProvResult_ite (fun _ => rfl) fun _ => writeReg_erased h dst rfl
  case storeOutput src port =>
    simp only [exec, execStoreOutput, hcfg]
    exact eraseProvResult_ite (fun _ => rfl) fun _ => checkedRead_erased h src fun hv => portWrite_erased h port hv
  case mov dst src => exact checkedRead_erased h src fun hv => writeReg_erased h dst hv
  case loadImm dst value width => exact eraseProvResult_ite (fun _ => rfl) fun _ => writeReg_erased h dst rfl
  case alu op dst a b =>
    cases hop : AluOp.ofCode op with
    | none => rw [exec_alu_of_reserved dst a b hop, exec_alu_of_reserved dst a b hop]
    | some o =>
      rw [exec_alu dst a b hop, exec_alu dst a b hop, hcfg]
      refine checkedRead_erased h a fun ha => checkedRead_erased h b fun hb => writeReg_erased h dst ?_
      rw [aluBinary_erased _ o ha hb]
  case aluImm op dst a imm =>
    cases hop : AluOp.ofCode op with
    | none => rw [exec_aluImm_of_reserved dst a imm hop, exec_aluImm_of_reserved dst a imm hop]
    | some o =>
      rw [exec_aluImm dst a imm hop, exec_aluImm dst a imm hop, hcfg]
      refine checkedRead_erased h a fun ha => writeReg_erased h dst ?_
      rw [aluBinary_erased _ o ha rfl]
  case aluUnary op dst src =>
    cases hop : AluUnaryOp.ofCode op with
    | none => rw [exec_aluUnary_of_reserved dst src hop, exec_aluUnary_of_reserved dst src hop]
    | some o =>
      rw [exec_aluUnary dst src hop, exec_aluUnary dst src hop, hcfg]
      refine checkedRead_erased h src fun hv => writeReg_erased h dst ?_
      rw [aluUnary_erased _ o hv]
  case srInit g n cond =>
    simp only [exec, execSrInit, hunit, hcfg]
    cases s.unit? g with
    | none => rfl
    | some u => exact eraseProvResult_ite (fun _ => rfl) fun _ => setUnit_erased h g _
  case ctrInit g n cond =>
    simp only [exec, execCtrInit, hunit, hcfg]
    cases s.unit? g with
    | none => rfl
    | some u => exact eraseProvResult_ite (fun _ => rfl) fun _ => setUnit_erased h g _
  case srTick g =>
    refine withSr_erased h g fun cond n bits dl => ?_
    rw [hmode, hcfg]
    cases s.mode with
    | host => exact complete_erased h
    | reflex =>
      refine checkedRead_erased h cond fun hv => ?_
      rw [truth_eq_of_erased hv]
      exact setUnit_erased h g _
  case ctrTick g =>
    refine withCtr_erased h g fun cond n count dl => ?_
    rw [hmode, hcfg]
    cases s.mode with
    | host => exact complete_erased h
    | reflex =>
      refine checkedRead_erased h cond fun hv => ?_
      rw [truth_eq_of_erased hv]
      exact setUnit_erased h g _
  case srQuery dst g =>
    refine withSr_erased h g fun cond n bits dl => ?_
    rw [hcfg]
    exact writeReg_erased h dst rfl
  case ctrQuery dst g =>
    refine withCtr_erased h g fun cond n count dl => ?_
    rw [hcfg]
    exact writeReg_erased h dst rfl
  case guardAnd dst a b | guardOr dst a b =>
    refine withConfigured_erased h a fun ua => withConfigured_erased h b fun ub => ?_
    rw [hcfg]
    exact writeReg_erased h dst rfl
  case reflexIf g dst src =>
    refine withConfigured_erased h g fun u => ?_
    rw [hcfg]
    exact eraseProvResult_ite (fun _ => checkedRead_erased h src fun hv => writeReg_erased h dst hv)
      fun _ => complete_erased h
  case prev dst signal delay =>
    have hword : (t.prevWord? signal delay.toNat).map eraseWordProv = (s.prevWord? signal delay.toNat).map eraseWordProv := by
      rw [← eraseProv_prevWord, ← eraseProv_prevWord, h]
    cases hs : s.prevWord? signal delay.toNat with
    | none =>
      rw [hs, Option.map_none, Option.map_eq_none_iff] at hword
      rw [exec_prev_of_none dst hs, exec_prev_of_none dst hword]
    | some v =>
      rw [hs, Option.map_some, Option.map_eq_some_iff] at hword
      obtain ⟨w, ht, hwv⟩ := hword
      by_cases hu : v.tag = .uninitialized
      · rw [exec_prev_of_uninit dst hs hu, exec_prev_of_uninit dst ht ((tag_eq_of_erased hwv).trans hu)]
        exact raiseExc_erased h _
      · rw [exec_prev_of_init dst hs hu, exec_prev_of_init dst ht (tag_eq_of_erased hwv ▸ hu)]
        exact writeReg_erased h dst hwv.symm
  case emergencyStop => exact congrArg (fun u : State => (.next { u with run := .emergencyStopped .instruction } : Result)) h
  case halt code => exact congrArg (fun u : State => (.next { u with run := .halted code } : Result)) h
  case assertAlways cond pid => exact assertUnless_erased h false cond
  case assertNever cond pid => exact assertUnless_erased h true cond
  case trap code =>
    cases hc : ExcCode.ofNumber code.toNat with
    | none => rw [exec_trap_of_none hc, exec_trap_of_none hc]
    | some c =>
      rw [exec_trap hc, exec_trap hc]
      exact raiseExc_erased h c
  case trapIf cond code =>
    cases hc : ExcCode.ofNumber code.toNat with
    | none => rw [exec_trapIf_of_none cond hc, exec_trapIf_of_none cond hc]
    | some c =>
      rw [exec_trapIf cond hc, exec_trapIf cond hc]
      refine checkedRead_erased h cond fun hv => ?_
      rw [truth_eq_of_erased hv]
      exact eraseProvResult_ite (fun _ => raiseExc_erased h c) fun _ => complete_erased h
  case modeSwitch target =>
    simp only [exec, execModeSwitch, hmode]
    have hswitch : ∀ m, eraseProvResult (complete { s with mode := m }) = eraseProvResult (complete { t with mode := m }) :=
      fun m => complete_erased (congrArg (fun u : State => { u with mode := m }) h :)
    cases Mode.ofNumber target.toNat with
    | none => rfl
    | some m =>
      refine eraseProvResult_ite (fun _ => rfl) fun _ => ?_
      cases m with
      | host => exact hswitch .host
      | reflex =>
        have hquiescent : (Config.quiescent t.cycle = true) = (Config.quiescent s.cycle = true) := by rw [hcycle]
        simp only [hquiescent]
        exact eraseProvResult_ite (fun _ => hswitch .reflex) fun _ => raiseExc_erased h .userTrap
  case tagLoad dst code =>
    cases hc : Tag.ofCode code with
    | none => rw [exec_tagLoad_of_none dst hc, exec_tagLoad_of_none dst hc]
    | some tag =>
      rw [exec_tagLoad dst hc, exec_tagLoad dst hc]
      exact writeReg_erased h dst (withTag_erased (reg_of_erased h dst) tag)
  case tagCheck src code =>
    cases hc : Tag.ofCode code with
    | none => rw [exec_tagCheck_of_none src hc, exec_tagCheck_of_none src hc]
    | some tag =>
      rw [exec_tagCheck src hc, exec_tagCheck src hc, tag_eq_of_erased (reg_of_erased h src)]
      exact eraseProvResult_ite (fun _ => raiseExc_erased h _) fun _ => complete_erased h
  case tagRead dst src =>
    rw [exec_tagRead, exec_tagRead, tag_eq_of_erased (reg_of_erased h src)]
    exact writeReg_erased h dst rfl
  case nop | fence => exact complete_erased h
  case deadlineSet g maxCycles =>
    refine withConfigured_erased h g fun u => ?_
    exact eraseProvResult_ite (fun _ => rfl) fun _ => setUnit_erased h g _

end

/-! ## A whole reflex-mode step -/

theorem eraseProv_deadlineStep (armed : Option Nat) (s : State) :
    (deadlineStep armed s).eraseProv = deadlineStep armed s.eraseProv := by
  unfold deadlineStep
  cases hmiss : anyMiss s.cfg.guardFns armed s.guards with
  | false => exact (if_neg (by simp [hmiss, State.eraseProv])).symm
  | true =>
    refine Eq.trans ?_ (if_pos (by simp [hmiss, State.eraseProv])).symm
    exact eraseProv_raise _ _ _

theorem eraseProv_endOfCycle (m : Mode) (i : Instr) (s : State) :
    (endOfCycle m i s).eraseProv = endOfCycle m i s.eraseProv := by
  by_cases hrun : s.run = .running ∧ m = .reflex
  · simp only [endOfCycle, if_pos hrun]
    rw [if_pos (show s.eraseProv.run = .running ∧ m = .reflex from hrun), ← eraseProv_deadlineStep]
    rfl
  · simp only [endOfCycle, if_neg hrun]
    rw [if_neg (show ¬ (s.eraseProv.run = .running ∧ m = .reflex) from hrun)]
    rfl

theorem eraseProv_tickBoundary (s : State) : s.tickBoundary.eraseProv = s.eraseProv.tickBoundary := rfl

/-- Ending the cycle commutes with erasing provenance. -/
theorem eraseProvResult_andThen_endOfCycle (m : Mode) (i : Instr) (r : Result) :
    eraseProvResult (andThen r fun u => .next (endOfCycle m i u)) =
      andThen (eraseProvResult r) fun u => .next (endOfCycle m i u) := by
  cases r with
  | next u => exact congrArg Host.Outcome.next (eraseProv_endOfCycle m i u)
  | fault f => rfl
  | refused f => rfl

section
variable {s t : State} (h : s.eraseProv = t.eraseProv)
include h

theorem fetchAndExecute_erased : eraseProvResult (fetchAndExecute s) = eraseProvResult (fetchAndExecute t) := by
  have hfetch : t.fetchWord = s.fetchWord := by
    rw [State.fetchWord, State.fetchWord, cfg_of_erased h, pc_of_erased h]
  cases hw : s.fetchWord with
  | none => rw [fetchAndExecute_of_noWord hw, fetchAndExecute_of_noWord (hfetch.trans hw)]
  | some w =>
    cases hi : decode w with
    | error e => rw [fetchAndExecute_of_error hw hi, fetchAndExecute_of_error (hfetch.trans hw) hi]
    | ok i =>
      rw [fetchAndExecute_of_ok hw hi, fetchAndExecute_of_ok (hfetch.trans hw) hi, mode_of_erased h,
        eraseProvResult_andThen_endOfCycle, eraseProvResult_andThen_endOfCycle, exec_erased h]

/-- In reflex mode the host does not act, so nothing in the step looks at provenance. -/
theorem step_erased (hm : s.mode = .reflex) : eraseProvResult (step s) = eraseProvResult (step t) := by
  have hcfg : t.cfg = s.cfg := cfg_of_erased h
  have hpc : t.pc = s.pc := pc_of_erased h
  have hrun : t.run = s.run := run_of_erased h
  have hhost : s.hostPhase.endOfProgram = s.endOfProgram := by rw [hostPhase_of_reflex hm]
  have hhost' : t.hostPhase.endOfProgram = t.endOfProgram := by
    rw [hostPhase_of_reflex ((mode_of_erased h).trans hm)]
  by_cases hr : s.run = .running
  case neg => rw [step, step, if_neg hr, if_neg (hrun ▸ hr)]
  case pos =>
    have hr' : t.run = .running := hrun.trans hr
    cases hc : s.cfg.refusal with
    | some r => rw [step_of_refusal hr hc, step_of_refusal hr' (hcfg ▸ hc)]
    | none =>
      have hc' : t.cfg.refusal = none := hcfg ▸ hc
      by_cases hlt : s.pc < s.cfg.program.length
      · rw [step_of_endOfProgram hr hc (hhost.trans <| endOfProgram_of_lt hlt),
          step_of_endOfProgram hr' hc' (hhost'.trans <| endOfProgram_of_lt (by rwa [hcfg, hpc]))]
        exact fetchAndExecute_erased h
      · have hge : s.cfg.program.length ≤ s.pc := Nat.not_lt.mp hlt
        have hge' : t.cfg.program.length ≤ t.pc := by rwa [hcfg, hpc]
        cases hend : s.cfg.endOfProgram with
        | fault =>
          rw [step_of_endOfProgram_none hr hc (hhost.trans <| endOfProgram_of_fault hge hend),
            step_of_endOfProgram_none hr' hc' (hhost'.trans <| endOfProgram_of_fault hge' (hcfg ▸ hend))]
        | wrap =>
          rw [step_of_endOfProgram hr hc (hhost.trans <| endOfProgram_of_wrap hge hend),
            step_of_endOfProgram hr' hc' (hhost'.trans <| endOfProgram_of_wrap hge' (hcfg ▸ hend))]
          refine fetchAndExecute_erased ?_
          rw [eraseProv_tickBoundary, eraseProv_tickBoundary, h]

end

/-- Settles O58: instruction by instruction, and through every part of a reflex-mode step. -/
theorem provenanceIsNeverRead : Obligations.ProvenanceIsNeverRead := by
  unfold Obligations.ProvenanceIsNeverRead
  exact fun s t h => ⟨exec_erased h, step_erased h⟩

end Sys2Proof.Machine
end
